-- ==== Sys2Proof/Word.lean ====
section
/-! DEFINITION. The words of GCORE (spec/00_scope.md R12): widths only. -/

namespace Sys2Proof

/-- One byte of BUF (R47). -/
abbrev Byte := BitVec 8

/-- A 32-bit register or bus word, `u32` (R11, R12). -/
abbrev Word := BitVec 32

/-- The bit pattern of an IEEE 754 binary32, `b32` (R12). -/
abbrev B32 := BitVec 32

/-- The bit pattern of an IEEE 754 binary64, `b64` (R12). -/
abbrev B64 := BitVec 64

/-- A host offset inside the 2 MiB window, 0x000000 to 0x1FFFFF (R80). -/
abbrev Offset := BitVec 21

end Sys2Proof
end

