-- ==== Sys2Proof/Config.lean ====
section
/-! DEFINITION. The configuration of GCORE: the fixed constants of spec/00_scope.md R8, the build-time parameters of
R10, and the free values of spec/93_implementation_defined.md, which are constants with no body. -/

namespace Sys2Proof

/-- The build-time parameters of R10 that are plain data. They are fixed when GCORE is built (R30); a state carries
them so that a claim about every state covers every build (DESIGN CHOICE, log 1). -/
structure Build where
  /-- BUF_ADDR_BITS, legal 13..20. -/
  bufAddrBits : Nat
  /-- PRE_PATTERN; the bit string stands in the low `preNbits` bits, first bit the most significant (R41). -/
  prePattern : Word
  /-- PRE_NBITS, legal 1..32. -/
  preNbits : Nat
  /-- PRE_SPB, symbols per preamble bit, legal 1..255. -/
  preSpb : Nat
  /-- ATAN2_64 and ATAN_64: true for the correctly rounded pair of the reference configuration, false for any other
  pair of functions that meets R201 and R202 (log 11, log 12). -/
  arctanReference : Bool
  deriving DecidableEq, Repr

/-- The reference configuration: the defaults of R10. -/
def Build.reference : Build :=
  { bufAddrBits := 20, prePattern := 0x0000008B#32, preNbits := 8, preSpb := 20, arctanReference := true }

/-- BUF_BYTES = 2^BUF_ADDR_BITS (R10). -/
def Build.bufBytes (b : Build) : Nat := 2 ^ b.bufAddrBits

/-- PRE_LEN = PRE_NBITS * PRE_SPB (R10). -/
def Build.preLen (b : Build) : Nat := b.preNbits * b.preSpb

namespace Config

/-- CODE_LEN, in chips (R8, R43). -/
def codeLen : Nat := 1023

/-- CHIP_RATE, in Hz (R8, R44). -/
def chipRate : Nat := 1023000

/-- DELAY_ENTRIES (R8). -/
def delayEntries : Nat := 51

/-- PLAT_BASE divided by 2 MiB: the base is any 2 MiB-aligned 32-bit address, and OPEN (R10, U18; log 2). -/
opaque platSlot : BitVec 11

/-- `freeByte d a` is what byte `a` of BUF holds by draw number `d`: after power-on (R310, U5; log 5) and after the
abort of a command (R311, U6; log 6). -/
opaque freeByte : Nat → Nat → Byte

/-- What G1 holds between commands, by the number of the draw (R48, U7; log 7). -/
opaque freeG1 : Nat → BitVec 10

/-- What G2 holds between commands (R48, U7; log 7). -/
opaque freeG2 : Nat → BitVec 10

/-- What G1seq holds between commands (R48, U7; log 7). -/
opaque freeG1seq : Nat → BitVec 1023

/-- What G2seq holds between commands (R48, U7; log 7). -/
opaque freeG2seq : Nat → BitVec 1023

/-- The last precision at which an arctangent's enclosure is tried, in bits: a number large enough for every pair of
binary64 operands exists, because there are finitely many and no exact angle of them is a binary64 or half way between
two, but the model does not choose it (log 11). -/
opaque arctanFinest : Nat

/-- What a build other than the reference proposes as ATAN2_64(y, x) for y of positive sign; it counts only where R201
admits it (U2; log 12). -/
opaque atan2Proposal : B64 → B64 → B64

/-- What a build other than the reference proposes as ATAN_64(x) for x of positive sign; it counts only where R202
admits it (U2; log 12). -/
opaque atanProposal : B64 → B64

end Config

end Sys2Proof
end

