-- ==== Sys2Proof/Syntax.lean ====
section
/-! DEFINITION. The command set of GCORE, version 1.0 (spec/00_scope.md R2, spec/30_encoding.md R111): one constructor
per row of spec/opcode_table.json. A command word carries no operand field (R110); the operands stand in ARG0..ARG7. -/

namespace Sys2Proof

inductive Instr where
  /-- NOP (R260) -/
  | nop
  /-- GEN_INT (R150) -/
  | genInt
  /-- GEN_REAL (R151) -/
  | genReal
  /-- GEN_CPLX (R152) -/
  | genCplx
  /-- GEN_RESAMP (R183) -/
  | genResamp
  /-- DISC_FLL (R210) -/
  | discFll
  /-- DISC_PLL4Q (R211) -/
  | discPll4q
  /-- DISC_COSTAS (R212) -/
  | discCostas
  /-- DISC_DLL (R213) -/
  | discDll
  /-- PRE_CORR (R241) -/
  | preCorr
  deriving DecidableEq, Repr

end Sys2Proof
end

