-- ==== Sys2Proof/WellFormed.lean ====
section
/-! DEFINITION. Well-formedness. A command has no operand field (spec/30_encoding.md R110), so every term of `Instr`
is well formed; what can be ill formed is a build, whose parameters have the legal values of spec/00_scope.md R10. -/

namespace Sys2Proof

/-- Every command is well formed: its word is its opcode and nothing else (R110). -/
def Instr.wf (i : Instr) : Bool :=
  match i with
  | .nop => true
  | .genInt => true
  | .genReal => true
  | .genCplx => true
  | .genResamp => true
  | .discFll => true
  | .discPll4q => true
  | .discCostas => true
  | .discDll => true
  | .preCorr => true

/-- BUF_ADDR_BITS is legal (R10). -/
def Build.bufAddrBitsOk (b : Build) : Bool := decide (13 ≤ b.bufAddrBits) && decide (b.bufAddrBits ≤ 20)

/-- PRE_NBITS is legal (R10). -/
def Build.preNbitsOk (b : Build) : Bool := decide (1 ≤ b.preNbits) && decide (b.preNbits ≤ 32)

/-- PRE_SPB is legal (R10). -/
def Build.preSpbOk (b : Build) : Bool := decide (1 ≤ b.preSpb) && decide (b.preSpb ≤ 255)

/-- Every parameter of the build is legal (R10); PRE_PATTERN may be any word. -/
def Build.wf (b : Build) : Bool := b.bufAddrBitsOk && b.preNbitsOk && b.preSpbOk

end Sys2Proof
end

