-- ==== Sys2Proof/Decode.lean ====
section
/-! DEFINITION. The command decoder and encoder (spec/30_encoding.md R110 to R112). -/

namespace Sys2Proof

/-- Why a word is no command (R112). -/
inductive Illegal where
  /-- RSVD, bits 31:8, is not zero. -/
  | reservedBits
  /-- OP, bits 7:0, is not in the opcode table. -/
  | reservedOp
  deriving DecidableEq, Repr

/-- OP, bits 7:0 of a command word (R110). -/
def cmdOp (w : Word) : BitVec 8 := w.extractLsb' 0 8

/-- RSVD, bits 31:8 of a command word (R110). -/
def cmdRsvd (w : Word) : BitVec 24 := w.extractLsb' 8 24

/-- The opcode map of R111. -/
def decodeOp (op : Nat) : Except Illegal Instr :=
  match op with
  | 0x00 => .ok .nop
  | 0x01 => .ok .genInt
  | 0x02 => .ok .genReal
  | 0x03 => .ok .genCplx
  | 0x04 => .ok .genResamp
  | 0x10 => .ok .discFll
  | 0x11 => .ok .discPll4q
  | 0x12 => .ok .discCostas
  | 0x13 => .ok .discDll
  | 0x20 => .ok .preCorr
  | _ => .error .reservedOp

/-- The decoder, total on every word (R110 to R112). -/
def decode (w : Word) : Except Illegal Instr :=
  if cmdRsvd w = 0#24 then decodeOp (cmdOp w).toNat else .error .reservedBits

/-- The opcode of a command (R111). -/
def Instr.op (i : Instr) : BitVec 8 :=
  match i with
  | .nop => 0x00#8
  | .genInt => 0x01#8
  | .genReal => 0x02#8
  | .genCplx => 0x03#8
  | .genResamp => 0x04#8
  | .discFll => 0x10#8
  | .discPll4q => 0x11#8
  | .discCostas => 0x12#8
  | .discDll => 0x13#8
  | .preCorr => 0x20#8

/-- The word of a command: OP in bits 7:0, zeros above (R110, R111). -/
def encode (i : Instr) : Word := 0#24 ++ i.op

/-- The command that the decoder reads from a table row's bits: a command is one 32-bit word (R110), bit 0 its least
significant bit, so a number that needs more than 32 bits is no command. -/
def decodeTableWord (nbits w : Nat) : Option Instr :=
  let bits := w % 2 ^ nbits
  if bits < 2 ^ 32 then
    match decode (BitVec.ofNat 32 bits) with
    | .ok i => some i
    | .error _ => none
  else none

end Sys2Proof
end

