-- ==== Sys2Proof/Machine/State.lean ====
section
/-! DEFINITION. The state of GCORE (spec/10_state.md R30) as plain data, the two agents' pending work (spec/00_scope.md
R19), and the state after a power-on reset (R60). -/

namespace Sys2Proof.Machine

/-- CTRL (R38): its two enable bits. Bits 30:2 read 0 and ignore writes, SRST is write-only. -/
structure Ctrl where
  /-- IE_DONE, bit 0 -/
  ieDone : Bool
  /-- IE_ERR, bit 1 -/
  ieErr : Bool
  deriving DecidableEq, Repr

/-- STATUS (R39): its eight fields. Bits 31:8 read 0 and ignore writes. -/
structure Status where
  /-- bit 0 -/
  busy : Bool
  /-- bit 1 -/
  done : Bool
  /-- bit 2 -/
  errPrn : Bool
  /-- bit 3 -/
  warnPrn : Bool
  /-- bit 4 -/
  errAddr : Bool
  /-- bit 5 -/
  errCmd : Bool
  /-- bit 6 -/
  ovr : Bool
  /-- bit 7 -/
  hostErr : Bool
  deriving DecidableEq, Repr

/-- The conditions of R270, each the STATUS flag that `raise` sets. -/
inductive Condition where
  | errPrn
  | warnPrn
  | errAddr
  | errCmd
  | ovr
  | hostErr
  deriving DecidableEq, Repr

/-- The hidden working state of the code generator (R48): bit `k` of `g1` and `g2` is position `k` from the front,
bit `n` of `g1seq` and `g2seq` is entry `n` of the sequence. -/
structure GenWork where
  g1 : BitVec 10
  g2 : BitVec 10
  g1seq : BitVec 1023
  g2seq : BitVec 1023
  deriving DecidableEq, Repr

/-- BUF (R47): the bytes written since the last power-on reset, addresses strictly rising. A byte that is not listed
has not been written since; it holds what draw number `fill` gave it (R310, U5; log 5). -/
structure Memory where
  fill : Nat
  cells : List Host.Cell
  deriving DecidableEq, Repr

/-- The registers of the register map (R34). -/
inductive Reg where
  | id
  | version
  | param
  | ctrl
  | status
  | cmd
  | resLo
  | resHi
  | arg (i : Fin 8)
  | prePattern
  | preCfg
  | codeLen
  | chipRate
  | prnRanges
  | delayRom (k : Fin 51)
  deriving DecidableEq, Repr

/-- What a window offset addresses (R80): a register, BUF byte `a` and the three after it, or nothing (a bad
access, R82). -/
inductive Target where
  | reg (r : Reg)
  | buf (a : Nat)
  | bad
  deriving DecidableEq, Repr

/-- One primitive operation of a host program (spec/30_encoding.md R119). Names are numbers (log 4). -/
inductive HostOp where
  /-- `W off, data` -/
  | write (off : Offset) (data : Word)
  /-- `R off -> name` -/
  | read (off : Offset) (name : Nat)
  /-- `POLL off, mask, value` -/
  | poll (off : Offset) (mask value : Word)
  deriving DecidableEq, Repr

/-- Whose step comes next (R19, R89; log 3). -/
inductive Turn where
  /-- the host's next transaction -/
  | host
  /-- the command engine -/
  | engine
  /-- the platform asserts the reset input (R310) -/
  | powerOn
  deriving DecidableEq, Repr

/-- The reasons the machine stops with a fault: none. No condition of GCORE halts the engine, aborts an access or
transfers control (R271, R282), so nobody raises a fault, and there is none to call safe or unsafe (log 14). -/
inductive Fault where
  deriving DecidableEq, Repr

/-- The reasons an instruction is refused. -/
inductive Refusal where
  /-- Raised by an arm of exec for an instruction that has no meaning yet; no arm does so now. Safe: the run stops. -/
  | notModelled (mnemonic : String)
  deriving DecidableEq, Repr

/-- The state of GCORE and of the work its agents have pending. -/
structure State where
  /-- The build-time parameters of R10; nothing changes them (log 1). -/
  build : Build
  /-- CTRL (R38) -/
  ctrl : Ctrl
  /-- STATUS (R39) -/
  status : Status
  /-- LAST_CMD (R40); the pending command while BUSY = 1 (R49) -/
  lastCmd : Word
  /-- RES (R33) -/
  res : BitVec 64
  /-- ARG0 to ARG7 (R32) -/
  args : Vector Word 8
  /-- BUF (R47) -/
  buf : Memory
  /-- G1, G2, G1seq and G2seq (R48) -/
  gen : GenWork
  /-- The model's own: the number of the next draw of free values (log 8). -/
  draws : Nat
  /-- The model's own: the turns still to be taken, oldest first (log 3). -/
  turns : List Turn
  /-- The model's own: what is left of the host's program (R119; log 4). -/
  host : List HostOp
  /-- The model's own: the names the host has bound, newest first (R119; log 4). -/
  reads : List (Nat × Word)
  deriving DecidableEq, Repr

/-- Every flag of STATUS clear (R39). -/
def Status.clear : Status :=
  { busy := false, done := false, errPrn := false, warnPrn := false, errAddr := false, errCmd := false,
    ovr := false, hostErr := false }

/-- The power-on state of R60 in the reference configuration of R10. The working state of the code generator is
unspecified there; 0 is the model's choice (DESIGN CHOICE, log 7), as are the values of the model's own fields
(log 3, 4, 8). -/
def State.reset : State :=
  { build := Build.reference
    ctrl := { ieDone := false, ieErr := false }
    status := Status.clear
    lastCmd := 0#32
    res := 0#64
    args := Vector.replicate 8 0#32
    buf := { fill := 0, cells := [] }
    gen := { g1 := 0#10, g2 := 0#10, g1seq := 0#1023, g2seq := 0#1023 }
    draws := 1
    turns := []
    host := []
    reads := [] }

end Sys2Proof.Machine
end

