-- ==== Sys2Proof/Machine/Flags.lean ====
section
/-! DEFINITION. STATUS, CTRL and IRQ (spec/10_state.md R38, R39, spec/60_exceptions.md R270, R280). GCORE has no
arithmetic flag (R52); these are all its flags. -/

namespace Sys2Proof.Machine

/-- Bit `k` of a word is `b` and every other bit is 0. -/
def flagBit (b : Bool) (k : Nat) : Word := if b then BitVec.ofNat 32 (2 ^ k) else 0#32

/-- What a read of STATUS returns (R39): bits 31:8 read 0. -/
def Status.toWord (f : Status) : Word :=
  flagBit f.busy 0 ||| flagBit f.done 1 ||| flagBit f.errPrn 2 ||| flagBit f.warnPrn 3 |||
    flagBit f.errAddr 4 ||| flagBit f.errCmd 5 ||| flagBit f.ovr 6 ||| flagBit f.hostErr 7

/-- A host write of `w` to STATUS clears each W1C bit whose written bit is 1, and nothing else (R39). -/
def Status.writeOneToClear (f : Status) (w : Word) : Status :=
  { busy := f.busy
    done := f.done && !w.getLsbD 1
    errPrn := f.errPrn && !w.getLsbD 2
    warnPrn := f.warnPrn && !w.getLsbD 3
    errAddr := f.errAddr && !w.getLsbD 4
    errCmd := f.errCmd && !w.getLsbD 5
    ovr := f.ovr && !w.getLsbD 6
    hostErr := f.hostErr && !w.getLsbD 7 }

/-- The STATUS bit that is condition `c`'s code (R270). -/
def Status.has (f : Status) (c : Condition) : Bool :=
  match c with
  | .errPrn => f.errPrn
  | .warnPrn => f.warnPrn
  | .errAddr => f.errAddr
  | .errCmd => f.errCmd
  | .ovr => f.ovr
  | .hostErr => f.hostErr

/-- STATUS with condition `c`'s flag set (R15, R270). -/
def Status.with (f : Status) (c : Condition) : Status :=
  match c with
  | .errPrn => { f with errPrn := true }
  | .warnPrn => { f with warnPrn := true }
  | .errAddr => { f with errAddr := true }
  | .errCmd => { f with errCmd := true }
  | .ovr => { f with ovr := true }
  | .hostErr => { f with hostErr := true }

/-- STATUS with condition `c`'s flag set when `b` holds. -/
def Status.withIf (f : Status) (b : Bool) (c : Condition) : Status := if b then f.with c else f

/-- STATUS when a command is accepted (R261). -/
def Status.accepted (f : Status) : Status := { f with busy := true, done := false }

/-- STATUS when a command completes (R262). -/
def Status.completed (f : Status) : Status := { f with busy := false, done := true }

/-- What a read of CTRL returns (R38): bits 30:2 read 0 and SRST reads 0. -/
def Ctrl.toWord (c : Ctrl) : Word := flagBit c.ieDone 0 ||| flagBit c.ieErr 1

/-- The enable bits of a word written to CTRL (R38). -/
def Ctrl.ofWord (w : Word) : Ctrl := { ieDone := w.getLsbD 0, ieErr := w.getLsbD 1 }

/-- Some flag that IE_ERR enables is set; WARN_PRN is none of them (R280). -/
def Status.irqError (f : Status) : Bool := f.errPrn || f.errAddr || f.errCmd || f.ovr || f.hostErr

/-- The interrupt output (R280). -/
def State.irq (s : State) : Bool := (s.ctrl.ieDone && s.status.done) || (s.ctrl.ieErr && s.status.irqError)

end Sys2Proof.Machine
end

