-- ==== Sys2Proof/Machine/Ops.lean ====
section
/-! DEFINITION. The named operations over registers and memory (spec/00_scope.md R13 to R15, spec/20_memory.md R86),
raising a condition (R15, R270), acceptance and completion (spec/44_control.md R261, R262). -/

namespace Sys2Proof.Machine

/-! ### Registers (R13, R32, R33) -/

/-- ARG[i] (R13). -/
def State.arg (s : State) (i : Fin 8) : Word := s.args[i]

/-- ARG[i] <- v (R13). -/
def State.setArg (s : State) (i : Fin 8) (v : Word) : State := { s with args := s.args.set i v }

/-- RES <- v (R13). -/
def State.setRes (s : State) (v : BitVec 64) : State := { s with res := v }

/-- RES_LO, bits 31:0 of RES (R33). -/
def State.resLo (s : State) : Word := s.res.extractLsb' 0 32

/-- RES_HI, bits 63:32 of RES (R33). -/
def State.resHi (s : State) : Word := s.res.extractLsb' 32 32

/-! ### Conditions (R15, R270)

`raise` is the ONE operation by which every condition is reported. It transfers no control and saves no state; it is
all that GCORE has in the place of taking an exception (R271, R282). Its undoing is the host's write of 1 to the
STATUS bit (R283), `Status.writeOneToClear`. -/

/-- `raise E`: set the sticky STATUS flag of condition `c` (R15, R270). -/
def State.raise (s : State) (c : Condition) : State := { s with status := s.status.with c }

/-- Raise `c` when `b` holds. -/
def State.raiseIf (s : State) (b : Bool) (c : Condition) : State := { s with status := s.status.withIf b c }

/-! ### The command life cycle (R261, R262) -/

/-- Acceptance of the word `w` (R261). -/
def State.accept (s : State) (w : Word) : State := { s with lastCmd := w, status := s.status.accepted }

/-- What completion does after the command's own rule (R262): BUSY <- 0 and DONE <- 1. -/
def State.complete (s : State) : State := { s with status := s.status.completed }

/-! ### BUF (R47, R83, R86) -/

/-- The byte listed for address `a`, if it has been written since the last power-on reset. -/
def lookupCell (cells : List Host.Cell) (a : Nat) : Option Byte :=
  match cells with
  | [] => none
  | c :: rest => if c.1 = a then some c.2 else lookupCell rest a

/-- BUF[a]. A byte never written since the last power-on reset holds what that reset's draw gave it, and goes on
holding it (R310, U5; log 5). -/
def Memory.byte (m : Memory) (a : Nat) : Byte :=
  match lookupCell m.cells a with
  | some b => b
  | none => Config.freeByte m.fill a

/-- The bytes `bs` at the addresses `a`, `a + 1`, … -/
def placeBytes (a : Nat) (bs : List Byte) : List Host.Cell := (bs.zipIdx a).map fun p => (p.2, p.1)

/-- BUF with the bytes `bs` stored at offsets `a .. a + bs.length − 1` and every other byte as it was. -/
def Memory.writeBytes (m : Memory) (a : Nat) (bs : List Byte) : Memory :=
  { m with
    cells := m.cells.filter (fun c => decide (c.1 < a)) ++ placeBytes a bs ++
      m.cells.filter (fun c => decide (a + bs.length ≤ c.1)) }

/-- The canonical form of BUF: addresses strictly rising. An unlisted byte is one never written since power-on, which
no listed byte is, so no listed byte could be left out (log 5). -/
abbrev Memory.wf (m : Memory) : Prop := m.cells.Pairwise fun c d => c.1 < d.1

/-- The `n` bytes of `v`, little-endian: byte j is v[8j+7 : 8j] (R83, R86). -/
def leBytes {w : Nat} (n : Nat) (v : BitVec w) : List Byte := (List.range n).map fun j => v.extractLsb' (8 * j) 8

/-- MemRead(a, n): the sum of BUF[a+j] * 2^(8j) over j in 0..n−1 (R86). -/
def Memory.memRead (m : Memory) (a n : Nat) : Nat := ((List.range n).map fun j => (m.byte (a + j)).toNat * 2 ^ (8 * j)).sum

/-- MemWrite(a, n, v): BUF[a+j] <- v[8j+7 : 8j] for j in 0..n−1 (R86). -/
def Memory.memWrite {w : Nat} (m : Memory) (a n : Nat) (v : BitVec w) : Memory := m.writeBytes a (leBytes n v)

/-- The free bytes of draw `d` at offsets `a .. a + n − 1` (R311, U6; log 6). -/
def freeBytes (d a n : Nat) : List Byte := (List.range n).map fun j => Config.freeByte d (a + j)

/-- The working state of the code generator by draw `d`: any value (R48, U7; log 7). -/
def freeGenWork (d : Nat) : GenWork :=
  { g1 := Config.freeG1 d, g2 := Config.freeG2 d, g1seq := Config.freeG1seq d, g2seq := Config.freeG2seq d }

/-- Between commands G1, G2, G1seq and G2seq are unspecified (R48): draw them afresh (log 7). -/
def State.forgetGen (s : State) : State := { s with gen := freeGenWork s.draws, draws := s.draws + 1 }

end Sys2Proof.Machine
end

