-- ==== Sys2Proof/Machine/Operands.lean ====
section
/-! DEFINITION. Every operand form of spec/30_encoding.md R114, R115, the range check of spec/20_memory.md R84 and the
element encodings of R117. -/

namespace Sys2Proof.Machine

/-- i32: `as_i32(ARG[i])` (R115). -/
def State.argI32 (s : State) (i : Fin 8) : Int := (s.arg i).toInt

/-- u32: `ARG[i]` unsigned (R115). -/
def State.argU32 (s : State) (i : Fin 8) : Nat := (s.arg i).toNat

/-- b32: `as_b32(ARG[i])`, every pattern accepted (R115). -/
def State.argB32 (s : State) (i : Fin 8) : B32 := s.arg i

/-- b64: `as_b64(lo, hi)`, which is {hi, lo} (R13, R115). -/
def asB64 (lo hi : Word) : B64 := hi ++ lo

/-- t1 of DISC_FLL: ARG5:ARG4 (R114). -/
def State.argT1 (s : State) : B64 := asB64 (s.arg 4) (s.arg 5)

/-- t2 of DISC_FLL: ARG7:ARG6 (R114). -/
def State.argT2 (s : State) : B64 := asB64 (s.arg 6) (s.arg 7)

/-- The range check of R84 for base `a`, `n` elements of `size` bytes, in mathematical integers; with n = 0 there is
no access and nothing to check. -/
def rangeOk (b : Build) (a size n : Nat) : Bool :=
  decide (n = 0) || (decide (a % size = 0) && decide (a + n * size ≤ b.bufBytes))

/-- i32 element of the chip value `c` (R117): the two's-complement value. -/
def encodeInt (c : Int) : BitVec 32 := if c = 1 then 0x00000001#32 else 0xFFFFFFFF#32

/-- b32 element of the chip value `c` (R117): +1.0 or −1.0. -/
def encodeReal (c : Int) : BitVec 32 := if c = 1 then 0x3F800000#32 else 0xBF800000#32

/-- Complex element of the chip value `c` (R117, R152): imaginary part in bits 63:32, real part +0.0 in bits 31:0. -/
def encodeCplx (c : Int) : BitVec 64 := encodeReal c ++ 0x00000000#32

end Sys2Proof.Machine
end

