-- ==== Sys2Proof/Machine/CodeGenerator.lean ====
section
/-! DEFINITION. The code generator and the format adapters (spec/40_code_generator.md): GEN_INT, GEN_REAL, GEN_CPLX. -/

namespace Sys2Proof.Machine

/-- DELAY_ROM (R50), the constant delays for PRN 1..32 and 120..138. -/
def delayTable : List Nat :=
  [5, 6, 7, 8, 17, 18, 139, 140, 141, 251, 252, 254, 255, 256, 257, 258, 469] ++
  [470, 471, 472, 473, 474, 509, 512, 513, 514, 515, 516, 859, 860, 861, 862, 145, 175] ++
  [52, 21, 237, 235, 886, 657, 634, 762, 355, 1012, 176, 603, 130, 359, 595, 68, 386]

/-- DELAY_ROM[k] (R50). -/
def delayRom (k : Nat) : Nat := delayTable.getD k 0

/-- PRN to table index, in mathematical integers (R141). -/
def prnIndex (prn : Int) : Int := if 120 ≤ prn ∧ prn ≤ 138 then prn - 88 else prn - 1

/-- The index is valid (R142). -/
def indexOk (idx : Int) : Bool := decide (0 ≤ idx) && decide (idx ≤ 50)

/-- The PRN is in one of the two ranges of R8. -/
def prnListed (prn : Int) : Bool :=
  (decide (1 ≤ prn) && decide (prn ≤ 32)) || (decide (120 ≤ prn) && decide (prn ≤ 138))

/-- Entry `n` of a 1023-entry sequence <- b. -/
def setEntry (v : BitVec 1023) (n : Nat) (b : Bool) : BitVec 1023 :=
  if b then v ||| BitVec.twoPow 1023 n else v &&& ~~~ BitVec.twoPow 1023 n

/-- The feedback of G1: taps 7 and 0 (R144). -/
def feedback1 (g : BitVec 10) : Bool := g.getLsbD 7 ^^ g.getLsbD 0

/-- The feedback of G2: taps 8, 7, 4, 2, 1, 0 (R144). -/
def feedback2 (g : BitVec 10) : Bool :=
  g.getLsbD 8 ^^ g.getLsbD 7 ^^ g.getLsbD 4 ^^ g.getLsbD 2 ^^ g.getLsbD 1 ^^ g.getLsbD 0

/-- Position k <- position k+1, the feedback bit at position 9: {f, g[9:1]} (R144). -/
def shiftIn (f : Bool) (g : BitVec 10) : BitVec 10 := BitVec.ofBool f ++ g.extractLsb' 1 9

/-- Iteration `n` of R144. -/
def genStep (n : Nat) (w : GenWork) : GenWork :=
  { g1 := shiftIn (feedback1 w.g1) w.g1
    g2 := shiftIn (feedback2 w.g2) w.g2
    g1seq := setEntry w.g1seq n (w.g1.getLsbD 0)
    g2seq := setEntry w.g2seq n (w.g2.getLsbD 0) }

/-- `k` iterations of R144, from iteration `n` on. -/
def genIterate (k n : Nat) (w : GenWork) : GenWork :=
  match k with
  | 0 => w
  | k + 1 => genIterate k (n + 1) (genStep n w)

/-- Where every GEN_ command starts: both registers all-true (R48, R144). The 1023 iterations write every entry of the
sequences, so what the sequences held before is never read. -/
def genStart : GenWork := { g1 := 0x3FF#10, g2 := 0x3FF#10, g1seq := 0#1023, g2seq := 0#1023 }

/-- The working state after the 1023 iterations of R144. -/
def generated : GenWork := genIterate 1023 0 genStart

/-- The chip shift reduced (R146). -/
def shiftMod (shift : Nat) : Nat := shift % 1023

/-- The effective delay e(p) for a table delay `d` (R147). -/
def effectiveDelay (d sh p : Nat) : Nat := ((1023 - d + sh) % 1023 + p) % 1023

/-- The chip at position `p` from the working sequences (R148). -/
def chipOf (w : GenWork) (idx shift p : Nat) : Int :=
  let sh := shiftMod shift
  if w.g1seq.getLsbD ((p + sh) % 1023) ^^ w.g2seq.getLsbD (effectiveDelay (delayRom idx) sh p) then 1 else -1

/-- CHIP(idx, shift, p) (R140, R148). -/
def chip (idx shift p : Nat) : Int := chipOf generated idx shift p

/-- prn, the i32 value of ARG0 (R114, R115). -/
def State.prn (s : State) : Int := s.argI32 0

/-- chipShift, the u32 value of ARG1 (R114). -/
def State.chipShift (s : State) : Nat := s.argU32 1

/-- DST, the u32 value of ARG2 (R114). -/
def State.dst (s : State) : Nat := s.argU32 2

/-- okp of R149: the table index is valid. -/
def State.prnOk (s : State) : Bool := indexOk (prnIndex s.prn)

/-- The table index of a valid PRN. -/
def State.tableIndex (s : State) : Nat := (prnIndex s.prn).toNat

/-- oka of R149 and R183: the destination of `n` elements of `size` bytes passes the range check. -/
def State.dstOk (s : State) (size n : Nat) : Bool := rangeOk s.build s.dst size n

/-- The flags of the two checks, which always both run (R149, R183, R281): ERR_PRN, else WARN_PRN, and ERR_ADDR. -/
def State.genFlags (s : State) (size n : Nat) : State :=
  ((s.raiseIf (!s.prnOk) .errPrn).raiseIf (s.prnOk && !prnListed s.prn) .warnPrn).raiseIf (!s.dstOk size n) .errAddr

/-- When both checks passed (`ok`), the elements of a waveform, one after another, to the destination, and their
number to RES; else nothing to BUF, and 0 to RES (R149, R183). -/
def State.putElements (s : State) (ok : Bool) (elements : List Byte) (n : Nat) : State :=
  { s with
    buf := if ok then s.buf.writeBytes s.dst elements else s.buf
    res := if ok then BitVec.ofNat 64 n else 0#64 }

/-- The bytes of the elements ENC(CHIP(idx, shift, at i)) for i in 0..n−1, each little-endian (R149, R183, R83). -/
def elementBytes {w : Nat} (enc : Int → BitVec w) (idx shift n : Nat) (pos : Nat → Nat) : List Byte :=
  (List.range n).flatMap fun i => leBytes (w / 8) (enc (chip idx shift (pos i)))

/-- GEN_COMMON(s, ENC) of R149 for elements of `w` bits; the working state is unspecified afterwards (R48). -/
def genCommon (w : Nat) (enc : Int → BitVec w) (s : State) : State :=
  ((s.genFlags (w / 8) 1023).putElements (s.prnOk && s.dstOk (w / 8) 1023)
    (elementBytes enc s.tableIndex s.chipShift 1023 id) 1023).forgetGen

/-- GEN_INT (R150). -/
def execGenInt (s : State) : Host.Outcome State Fault Refusal := .next (genCommon 32 encodeInt s)

/-- GEN_REAL (R151). -/
def execGenReal (s : State) : Host.Outcome State Fault Refusal := .next (genCommon 32 encodeReal s)

/-- GEN_CPLX (R152). -/
def execGenCplx (s : State) : Host.Outcome State Fault Refusal := .next (genCommon 64 encodeCplx s)

end Sys2Proof.Machine
end

