-- ==== Sys2Proof/Machine/Control.lean ====
section
/-! DEFINITION. NOP (spec/44_control.md R260). -/

namespace Sys2Proof.Machine

/-- NOP does nothing beyond completion, which `step` adds to every command (R260, R262). -/
def execNop (s : State) : Host.Outcome State Fault Refusal := .next s

end Sys2Proof.Machine
end

