-- ==== Sys2Proof/Machine/Float.lean ====
section
/-! DEFINITION. The IEEE 754 binary64 operations of spec/00_scope.md R17 and spec/42_discriminators.md R200: exact
integer arithmetic, then ONE rounding to nearest, ties to even. Subnormals are kept and no flag exists (R200). The
IEEE semantics are supplied by the spec from general knowledge (K3; log 10). -/

namespace Sys2Proof.Machine

/-- A floating-point value as a mathematical object: a NaN, a signed infinity, or (−1)^neg * m * 2^e, where m = 0 is a
signed zero. -/
inductive Fp where
  | nan
  | inf (neg : Bool)
  | fin (neg : Bool) (m : Nat) (e : Int)
  deriving DecidableEq, Repr

/-- The canonical NaN, 0x7FF8000000000000 (R17). -/
def nan64 : B64 := 0x7FF8000000000000#64

/-- The bit pattern of +∞, as a number; the patterns of the finite magnitudes are the smaller numbers. -/
def infBits : Nat := 0x7FF0000000000000

/-- The sign bit of a binary64. -/
def sign64 (x : B64) : Bool := x.getLsbD 63

/-- The magnitude bits of a binary64, as a number. -/
def magBits (x : B64) : Nat := (x.extractLsb' 0 63).toNat

/-- `magBits` with a sign. -/
def withSign (neg : Bool) (bits : Nat) : B64 := BitVec.ofBool neg ++ BitVec.ofNat 63 bits

/-- The value of a binary64 pattern. -/
def unpack64 (x : B64) : Fp :=
  let neg := x.getLsbD 63
  let ex := (x.extractLsb' 52 11).toNat
  let frac := (x.extractLsb' 0 52).toNat
  if ex = 2047 then (if frac = 0 then .inf neg else .nan)
  else if ex = 0 then .fin neg frac (-1074)
  else .fin neg (2 ^ 52 + frac) ((ex : Int) - 1075)

/-- The value of a binary32 pattern. -/
def unpack32 (x : B32) : Fp :=
  let neg := x.getLsbD 31
  let ex := (x.extractLsb' 23 8).toNat
  let frac := (x.extractLsb' 0 23).toNat
  if ex = 255 then (if frac = 0 then .inf neg else .nan)
  else if ex = 0 then .fin neg frac (-149)
  else .fin neg (2 ^ 23 + frac) ((ex : Int) - 150)

/-- The quotient m / 2^d rounded to the nearest integer, ties to even. -/
def roundShift (m d : Nat) : Nat :=
  let q := m / 2 ^ d
  let r := m % 2 ^ d
  if 2 ^ d < 2 * r then q + 1
  else if 2 * r = 2 ^ d then q + q % 2
  else q

/-- The exponent of the last place of a binary64 near m * 2^e, m ≠ 0: 53 significant bits, but never below −1074. -/
def ulpExp (m : Nat) (e : Int) : Int := max (e + (Nat.log2 m : Int) - 52) (-1074)

/-- The magnitude bits of m * 2^e when `cut n d` takes n / 2^d to an integer; overflow gives +∞. A normal
significand's leading one is added into the exponent field, so a carry out of the rounding moves to the next exponent
by itself. -/
def roundBitsBy (cut : Nat → Nat → Nat) (m : Nat) (e : Int) : Nat :=
  if m = 0 then 0
  else
    let q := ulpExp m e
    let sig := if q ≤ e then m * 2 ^ (e - q).toNat else cut m (q - e).toNat
    min ((q + 1074).toNat * 2 ^ 52 + sig) infBits

/-- The magnitude bits of m * 2^e rounded to nearest, ties to even. -/
def roundBits (m : Nat) (e : Int) : Nat := roundBitsBy roundShift m e

/-- The magnitude bits of m * 2^e rounded down. -/
def floorBits (m : Nat) (e : Int) : Nat := roundBitsBy (fun n d => n / 2 ^ d) m e

/-- The binary64 nearest to (−1)^neg * m * 2^e, ties to even. -/
def round64 (neg : Bool) (m : Nat) (e : Int) : B64 := withSign neg (roundBits m e)

/-- The binary64 pattern of a value, rounded where it has to be. -/
def pack64 (v : Fp) : B64 :=
  match v with
  | .nan => nan64
  | .inf neg => withSign neg infBits
  | .fin neg m e => round64 neg m e

/-- `to64`: a binary32 widened; every finite value is exact (R17, R200). -/
def to64 (x : B32) : B64 := pack64 (unpack32 x)

/-- `canon`: every NaN becomes the canonical one (R17). -/
def canon (x : B64) : B64 :=
  match unpack64 x with
  | .nan => nan64
  | .inf _ => x
  | .fin _ _ _ => x

/-- The opposite sign; a NaN stays a NaN. -/
def neg64 (x : B64) : B64 := x ^^^ 0x8000000000000000#64

/-- The integer (−1)^neg * m. -/
def signed (neg : Bool) (m : Nat) : Int := if neg then -(m : Int) else (m : Int)

/-- The sum of two finite values. An exact zero sum is +0 unless both operands are negative. -/
def addFin (n1 : Bool) (m1 : Nat) (e1 : Int) (n2 : Bool) (m2 : Nat) (e2 : Int) : B64 :=
  let e := min e1 e2
  let v := signed n1 (m1 * 2 ^ (e1 - e).toNat) + signed n2 (m2 * 2 ^ (e2 - e).toNat)
  if v = 0 then withSign (n1 && n2) 0 else round64 (decide (v < 0)) v.natAbs e

/-- `add64` (R17). -/
def add64 (x y : B64) : B64 :=
  match unpack64 x, unpack64 y with
  | .nan, _ => nan64
  | _, .nan => nan64
  | .inf a, .inf b => if a = b then withSign a infBits else nan64
  | .inf a, .fin _ _ _ => withSign a infBits
  | .fin _ _ _, .inf b => withSign b infBits
  | .fin n1 m1 e1, .fin n2 m2 e2 => addFin n1 m1 e1 n2 m2 e2

/-- `sub64` (R17). -/
def sub64 (x y : B64) : B64 := add64 x (neg64 y)

/-- `mul64` (R17). -/
def mul64 (x y : B64) : B64 :=
  match unpack64 x, unpack64 y with
  | .nan, _ => nan64
  | _, .nan => nan64
  | .inf a, .inf b => withSign (a ^^ b) infBits
  | .inf a, .fin b m _ => if m = 0 then nan64 else withSign (a ^^ b) infBits
  | .fin a m _, .inf b => if m = 0 then nan64 else withSign (a ^^ b) infBits
  | .fin n1 m1 e1, .fin n2 m2 e2 => round64 (n1 ^^ n2) (m1 * m2) (e1 + e2)

/-- A bit that says whether something was left over, so that a quotient or root cut off far below the rounding
position rounds as the exact value does. -/
def stickyBit (exact : Bool) : Nat := if exact then 0 else 1

/-- The quotient of two finite values, the divisor not zero: at least 65 bits of it, and the sticky bit. -/
def divFin (neg : Bool) (m1 : Nat) (e1 : Int) (m2 : Nat) (e2 : Int) : B64 :=
  let k := Nat.log2 m2 + 66
  let num := m1 * 2 ^ k
  round64 neg (2 * (num / m2) + stickyBit (decide (num % m2 = 0))) (e1 - e2 - k - 1)

/-- `div64` (R17). -/
def div64 (x y : B64) : B64 :=
  match unpack64 x, unpack64 y with
  | .nan, _ => nan64
  | _, .nan => nan64
  | .inf _, .inf _ => nan64
  | .inf a, .fin b _ _ => withSign (a ^^ b) infBits
  | .fin a _ _, .inf b => withSign (a ^^ b) 0
  | .fin n1 m1 e1, .fin n2 m2 e2 =>
    if m2 = 0 then (if m1 = 0 then nan64 else withSign (n1 ^^ n2) infBits)
    else divFin (n1 ^^ n2) m1 e1 m2 e2

/-- The integer square root of `n`, one bit at a time: bits below `k` of the root are still to be found, `r` holds the
others. -/
def rootBits (n k r : Nat) : Nat :=
  match k with
  | 0 => r
  | k + 1 => if (r + 2 ^ k) * (r + 2 ^ k) ≤ n then rootBits n k (r + 2 ^ k) else rootBits n k r

/-- The integer square root, rounded down. -/
def natRoot (n : Nat) : Nat := rootBits n (Nat.log2 n / 2 + 1) 0

/-- The square root of a positive finite value m * 2^e: the significand is scaled to an even exponent and to at least
128 bits, so the root has at least 64, and the sticky bit says the rest. -/
def sqrtFin (m : Nat) (e : Int) : B64 :=
  let k : Nat := 128 + (e % 2).toNat
  let n := m * 2 ^ k
  let r := natRoot n
  round64 false (2 * r + stickyBit (decide (r * r = n))) ((e - k) / 2 - 1)

/-- `sqrt64` (R17). -/
def sqrt64 (x : B64) : B64 :=
  match unpack64 x with
  | .nan => nan64
  | .inf neg => if neg then nan64 else x
  | .fin neg m e => if m = 0 then x else if neg then nan64 else sqrtFin m e

end Sys2Proof.Machine
end

