-- ==== Sys2Proof/Machine/Arctan.lean ====
section
/-! DEFINITION. The configuration functions ATAN2_64 and ATAN_64 of spec/42_discriminators.md R201 and R202.

The exact angle is enclosed between two integers times 2^(−F), by exact integer arithmetic on Taylor's series and
Machin's formula; where both ends round to the same binary64 that is the correctly rounded angle, and where they do
not the enclosure is made finer (log 11). A build other than the reference may return any other value within 1 ulp: its
proposal, a constant with no body, counts wherever R201 or R202 admits it (log 12). Special cases, oddness and range
are laid down around this core, for every build alike. -/

namespace Sys2Proof.Machine

/-- The bits of the rounded π, π/2, π/4 and 3π/4 (R201). -/
def piBits : Nat := 0x400921FB54442D18

/-- See `piBits`. -/
def halfPiBits : Nat := 0x3FF921FB54442D18

/-- See `piBits`. -/
def quarterPiBits : Nat := 0x3FE921FB54442D18

/-- See `piBits`. -/
def threeQuarterPiBits : Nat := 0x4002D97C7F3321D2

/-- Taylor's series of the arctangent of u, two terms a round, u^2 = a2 / b2: `t` is u^(2n+1) and `plus`, `minus` are
the sums of the terms so far with either sign, all as multiples of 2^(−F) rounded down. -/
def taylorSum (a2 b2 rounds n t plus minus : Nat) : Nat :=
  match rounds with
  | 0 => plus - minus
  | k + 1 =>
    if t = 0 then plus - minus
    else
      taylorSum a2 b2 k (n + 2) (t * a2 / b2 * a2 / b2) (plus + t / (2 * n + 1)) (minus + t * a2 / b2 / (2 * n + 3))

/-- The rounds of `taylorSum` for P bits of an argument of at most 1/2: each round gains 4 bits. -/
def taylorRounds (P : Nat) : Nat := P / 4 + 8

/-- arctan(a / b) * 2^F for 0 ≤ a / b ≤ 1/2, with an error of less than `8 * taylorRounds P` when F is P and the number
of leading zero bits of a / b together. -/
def arctanScaled (P F a b : Nat) : Nat := taylorSum (a * a) (b * b) (taylorRounds P) 0 (a * 2 ^ F / b) 0 0

/-- π/4 * 2^F by Machin's formula, 4 arctan(1/5) − arctan(1/239). -/
def quarterPiScaled (P F : Nat) : Nat := 4 * arctanScaled P F 1 5 - arctanScaled P F 1 239

/-- An angle as k * π/4 + arctan(a / b) or k * π/4 − arctan(a / b), 0 ≤ a / b ≤ 1/2. -/
structure Angle where
  k : Nat
  minus : Bool
  a : Nat
  b : Nat
  deriving DecidableEq, Repr

/-- The angle of the point (b, a), a and b positive, in the first quadrant. -/
def firstQuadrant (a b : Nat) : Angle :=
  if 2 * a ≤ b then { k := 0, minus := false, a := a, b := b }
  else if 2 * b ≤ a then { k := 2, minus := true, a := b, b := a }
  else if b ≤ a then { k := 1, minus := false, a := a - b, b := a + b }
  else { k := 1, minus := true, a := b - a, b := a + b }

/-- The angle of the point (−b, a) from that of (b, a): π minus it. -/
def Angle.mirrored (g : Angle) : Angle := { g with k := 4 - g.k, minus := !g.minus }

/-- The angle of the point (x, y), y > 0: y = my * 2^ey, x = (−1)^xneg * mx * 2^ex, my and mx positive. -/
def angleOf (my : Nat) (ey : Int) (xneg : Bool) (mx : Nat) (ex : Int) : Angle :=
  let g := firstQuadrant (my * 2 ^ (ey - ex).toNat) (mx * 2 ^ (ex - ey).toNat)
  if xneg then g.mirrored else g

/-- The scale F for P good bits of an angle: a small angle needs its leading zero bits too. -/
def Angle.scale (g : Angle) (P : Nat) : Nat :=
  if g.k = 0 then P + (Nat.log2 g.b - Nat.log2 g.a) else P

/-- The angle times 2^F, F = `g.scale P`, with an error of less than `angleError P`. -/
def Angle.scaled (g : Angle) (P : Nat) : Nat :=
  let F := g.scale P
  let u := arctanScaled P F g.a g.b
  if g.k = 0 then u
  else if g.minus then g.k * quarterPiScaled P F - u
  else g.k * quarterPiScaled P F + u

/-- More than the error of `Angle.scaled`: four quarters of π with five series each, and one series. -/
def angleError (P : Nat) : Nat := 32 * (8 * taylorRounds P)

/-- The lower end of the enclosure. -/
def Angle.low (g : Angle) (P : Nat) : Nat := g.scaled P - angleError P

/-- The upper end of the enclosure. -/
def Angle.high (g : Angle) (P : Nat) : Nat := g.scaled P + angleError P

/-- The precisions at which an enclosure is tried, in bits. Where the angle is a hair below a binary64, as it is for
a small binary64 quotient, 2400 are enough for the smallest (log 11). -/
def arctanPrecisions : List Nat := [128, 512, 2400, Config.arctanFinest]

/-- The magnitude bits that `round`, a monotone rounding, gives the exact angle: those on which both ends of the
enclosure agree, at the first of the precisions at which they do (log 11). -/
def Angle.settled (g : Angle) (round : Nat → Int → Nat) (precisions : List Nat) : Option Nat :=
  match precisions with
  | [] => none
  | P :: finer =>
    let lo := round (g.low P) (-(g.scale P : Int))
    if lo = round (g.high P) (-(g.scale P : Int)) then some lo else g.settled round finer

/-- The magnitude bits of the angle, correctly rounded (R201 (a), R202 (a)); those of the 2400-bit enclosure's lower
end where no enclosure tried settles them (log 11). -/
def Angle.nearestBits (g : Angle) : Nat :=
  (g.settled roundBits arctanPrecisions).getD (roundBits (g.low 2400) (-(g.scale 2400 : Int)))

/-- `bits` is the pattern of 2^k for some k above −1022: the binary64 below it is nearer to it than the one above. -/
def isBinadeStart (bits : Nat) : Bool := decide (bits % 2 ^ 52 = 0) && decide (2 ^ 53 ≤ bits)

/-- The magnitude `bits` is within 1 ulp of the exact angle, which lies between the binary64 `f` and `f + 1` and rounds
to `nearest`; the unit is taken at the angle (log 13). Both neighbours are. So is the one below `f`, half a unit away
from it, where `f` begins a binade and the angle rounds to `f`; no other is. -/
def withinUlp (nearest : Option Nat) (bits f : Nat) : Bool :=
  decide (bits = f) || decide (bits = f + 1) ||
    (decide (bits + 1 = f) && isBinadeStart f && decide (nearest = some f))

/-- R201 (a) and R202 (a) admit the magnitude `bits` for the angle. -/
def Angle.admits (g : Angle) (bits : Nat) : Bool :=
  (g.settled floorBits arctanPrecisions).any (withinUlp (g.settled roundBits arctanPrecisions) bits)

/-- The value of an angle of positive sign in a build: the correctly rounded one in the reference configuration, else
the proposal where it is admitted (log 11, log 12); never more than `most` (R201 (d), R202 (d)). Where the angle is so
small that 0 is within 1 ulp of it, a proposal of 0 may have either sign; the correctly rounded 0 has the angle's. -/
def Angle.value (g : Angle) (reference : Bool) (proposal : B64) (most : Nat) : B64 :=
  if !reference && g.admits (magBits proposal) then
    withSign (sign64 proposal && decide (magBits proposal = 0)) (min most (magBits proposal))
  else withSign false (min most g.nearestBits)

/-- atan2(y, x) for y of positive sign (R201 (b), and the core for finite non-zero operands). -/
def atan2Positive (reference : Bool) (proposal : B64) (y x : Fp) : B64 :=
  match y, x with
  | .nan, _ => nan64
  | _, .nan => nan64
  | .inf _, .inf xneg => withSign false (if xneg then threeQuarterPiBits else quarterPiBits)
  | .inf _, .fin _ _ _ => withSign false halfPiBits
  | .fin _ _ _, .inf xneg => withSign false (if xneg then piBits else 0)
  | .fin _ my ey, .fin xneg mx ex =>
    if my = 0 then withSign false (if xneg then piBits else 0)
    else if mx = 0 then withSign false halfPiBits
    else (angleOf my ey xneg mx ex).value reference proposal piBits

/-- The opposite sign where `neg` holds: how an odd function is carried to negative operands (R201 (c), R202 (c)). -/
def negateIf (neg : Bool) (v : B64) : B64 := if neg then neg64 v else v

/-- ATAN2_64(y, x) in a build (R201): from |y| and x, with the sign of y carried over, so that it is odd in y. -/
def atan2 (b : Build) (y x : B64) : B64 :=
  match unpack64 y, unpack64 x with
  | .nan, _ => nan64
  | _, .nan => nan64
  | vy, vx =>
    negateIf (sign64 y) (atan2Positive b.arctanReference (Config.atan2Proposal (withSign false (magBits y)) x) vy vx)

/-- atan(x) for x of positive sign (R202 (b), and the core for finite non-zero x). -/
def atanPositive (reference : Bool) (proposal : B64) (x : Fp) : B64 :=
  match x with
  | .nan => nan64
  | .inf _ => withSign false halfPiBits
  | .fin _ m e =>
    if m = 0 then withSign false 0 else (angleOf m e false 1 0).value reference proposal halfPiBits

/-- ATAN_64(x) in a build (R202): odd, like `atan2`. -/
def atan (b : Build) (x : B64) : B64 :=
  match unpack64 x with
  | .nan => nan64
  | vx => negateIf (sign64 x) (atanPositive b.arctanReference (Config.atanProposal (withSign false (magBits x))) vx)

end Sys2Proof.Machine
end

