-- ==== Sys2Proof/Machine/Discriminators.lean ====
section
/-! DEFINITION. The discriminator bank (spec/42_discriminators.md): DISC_FLL, DISC_PLL4Q, DISC_COSTAS, DISC_DLL. No
input is checked, no error flag is set and BUF is not touched (R203). -/

namespace Sys2Proof.Machine

/-- A correlator component: the b32 operand ARG[i] widened (R200). -/
def State.component (s : State) (i : Fin 8) : B64 := to64 (s.argB32 i)

/-- `cross` of R210. -/
def fllCross (i1 q1 i2 q2 : B64) : B64 := sub64 (mul64 i1 q2) (mul64 i2 q1)

/-- `dot` of R210. -/
def fllDot (i1 q1 i2 q2 : B64) : B64 := add64 (mul64 i1 i2) (mul64 q1 q2)

/-- The result of DISC_FLL: ATAN2_64(cross, dot) / (t1 − t2) (R210). -/
def fllResult (b : Build) (i1 q1 i2 q2 t1 t2 : B64) : B64 :=
  canon (div64 (atan2 b (fllCross i1 q1 i2 q2) (fllDot i1 q1 i2 q2)) (sub64 t1 t2))

/-- The complex magnitude of R213: one rounding in the sum and one in the root. -/
def envelope (i q : B64) : B64 := sqrt64 (add64 (mul64 i i) (mul64 q q))

/-- The result of DISC_DLL: (E − L) / (E + L) (R213). -/
def dllResult (ei eq li lq : B64) : B64 :=
  canon (div64 (sub64 (envelope ei eq) (envelope li lq)) (add64 (envelope ei eq) (envelope li lq)))

/-- DISC_FLL (R210). -/
def execDiscFll (s : State) : Host.Outcome State Fault Refusal :=
  .next (s.setRes (fllResult s.build (s.component 0) (s.component 1) (s.component 2) (s.component 3) s.argT1 s.argT2))

/-- DISC_PLL4Q (R211): Q, which is ARG1, first. -/
def execDiscPll4q (s : State) : Host.Outcome State Fault Refusal :=
  .next (s.setRes (canon (atan2 s.build (s.component 1) (s.component 0))))

/-- DISC_COSTAS (R212). -/
def execDiscCostas (s : State) : Host.Outcome State Fault Refusal :=
  .next (s.setRes (canon (atan s.build (div64 (s.component 1) (s.component 0)))))

/-- DISC_DLL (R213). -/
def execDiscDll (s : State) : Host.Outcome State Fault Refusal :=
  .next (s.setRes (dllResult (s.component 0) (s.component 1) (s.component 2) (s.component 3)))

end Sys2Proof.Machine
end

