-- ==== Sys2Proof/Machine/Preamble.lean ====
section
/-! DEFINITION. The preamble correlator (spec/43_preamble_correlator.md): PRE_CORR. -/

namespace Sys2Proof.Machine

/-- PREF[k] (R51): the bits of the pattern from bit PRE_NBITS − 1 down, each for PRE_SPB symbols, bit 1 as +1. -/
def pref (b : Build) (k : Nat) : Int :=
  if b.prePattern.getLsbD (b.preNbits - 1 - k / b.preSpb) then 1 else -1

/-- The IEEE comparison x < 0 of R240: the sign bit is 1 and x is neither a NaN nor a zero. -/
def isNegative (x : B64) : Bool :=
  match unpack64 x with
  | .nan => false
  | .inf neg => neg
  | .fin neg m _ => neg && decide (m ≠ 0)

/-- What symbol `x` adds to the score against the reference entry `r` (R241). -/
def scoreTerm (x : B64) (r : Int) : Int := if isNegative x then -r else r

/-- Symbol `k` of the window at `src` (R118, R240). -/
def Memory.symbol (m : Memory) (src k : Nat) : B64 := BitVec.ofNat 64 (m.memRead (src + 8 * k) 8)

/-- The score of the window at `src` (R241). -/
def windowScore (b : Build) (m : Memory) (src : Nat) : Int :=
  ((List.range b.preLen).map fun k => scoreTerm (m.symbol src k) (pref b k)).sum

/-- SRC, the u32 value of ARG0 (R114). -/
def State.src (s : State) : Nat := s.argU32 0

/-- The range check of PRE_CORR (R84, R85). -/
def State.srcOk (s : State) : Bool := rangeOk s.build s.src 8 s.build.preLen

/-- PRE_CORR (R241): RES is the sign-extended score. -/
def execPreCorr (s : State) : Host.Outcome State Fault Refusal :=
  .next
    (if s.srcOk then s.setRes (BitVec.ofInt 64 (windowScore s.build s.buf s.src))
    else (s.raise .errAddr).setRes 0#64)

end Sys2Proof.Machine
end

