-- ==== Sys2Proof/Machine/Resampler.lean ====
section
/-! DEFINITION. The code resampler (spec/41_resampler.md): GEN_RESAMP. -/

namespace Sys2Proof.Machine

/-- FS, the i32 value of ARG3, in Hz (R114, R180). -/
def State.fs (s : State) : Int := s.argI32 3

/-- N, the sample count for a sampling frequency (R180). -/
def sampleCount (fs : Int) : Nat := if 1000 ≤ fs then fs.toNat / 1000 else 0

/-- SRCIDX(i) for `n` samples at `fs` Hz, in exact integers; the last sample is chip 1022 (R181). -/
def srcIdx (fs n i : Nat) : Nat := if i + 1 = n then 1022 else ((i + 1) * 1023000 + fs - 1) / fs - 1

/-- N of a GEN_RESAMP command (R183). -/
def State.samples (s : State) : Nat := sampleCount s.fs

/-- GEN_RESAMP's command rule (R183, R184): the generator's checks, then N complex samples; the working state is
unspecified afterwards (R48). -/
def resampled (s : State) : State :=
  ((s.genFlags 8 s.samples).putElements (s.prnOk && s.dstOk 8 s.samples && decide (0 < s.samples))
    (elementBytes encodeCplx s.tableIndex s.chipShift s.samples (srcIdx s.fs.toNat s.samples)) s.samples).forgetGen

/-- GEN_RESAMP (R183). -/
def execGenResamp (s : State) : Host.Outcome State Fault Refusal := .next (resampled s)

end Sys2Proof.Machine
end

