-- ==== Sys2Proof/Machine/Dispatch.lean ====
section
/-! DEFINITION. The meaning of every command (spec/44_control.md R262: "the command rule"), one arm per constructor. -/

namespace Sys2Proof.Machine

def exec (i : Instr) (s : State) : Host.Outcome State Fault Refusal :=
  match i with
  | .nop => Sys2Proof.Machine.execNop s
  | .genInt => Sys2Proof.Machine.execGenInt s
  | .genReal => Sys2Proof.Machine.execGenReal s
  | .genCplx => Sys2Proof.Machine.execGenCplx s
  | .genResamp => Sys2Proof.Machine.execGenResamp s
  | .discFll => Sys2Proof.Machine.execDiscFll s
  | .discPll4q => Sys2Proof.Machine.execDiscPll4q s
  | .discCostas => Sys2Proof.Machine.execDiscCostas s
  | .discDll => Sys2Proof.Machine.execDiscDll s
  | .preCorr => Sys2Proof.Machine.execPreCorr s

end Sys2Proof.Machine
end

