-- ==== Sys2Proof/Machine/Engine.lean ====
section
/-! DEFINITION. The command engine's step (spec/44_control.md R262) and the rule for an illegal word
(spec/30_encoding.md R112). -/

namespace Sys2Proof.Machine

/-- BUSY <- 0 and DONE <- 1 after a command's own rule (R262). -/
def completing (o : Host.Outcome State Fault Refusal) : Host.Outcome State Fault Refusal :=
  match o with
  | .next t => .next t.complete
  | .fault r => .fault r
  | .refused r => .refused r

/-- The engine's step on the pending word (R262): the command's rule for a legal word, ERR_CMD and nothing else for an
illegal one (R112); then completion. -/
def runPending (s : State) : Host.Outcome State Fault Refusal :=
  match decode s.lastCmd with
  | .ok i => completing (exec i s)
  | .error _ => completing (.next (s.raise .errCmd))

/-- The engine's turn: its step is enabled if and only if BUSY = 1 (R262). -/
def engineTurn (s : State) : Host.Outcome State Fault Refusal := if s.status.busy then runPending s else .next s

/-- `s` with the word `w` accepted as the pending command (R261) and the engine's turn next (log 15). -/
def State.placeCommand (s : State) (w : Word) : State := { s.accept w with turns := .engine :: s.turns }

end Sys2Proof.Machine
end

