-- ==== Sys2Proof/Machine/HostBus.lean ====
section
/-! DEFINITION. The host's accesses to the window (spec/10_state.md R34 to R46, spec/20_memory.md R80 to R82), the
accesses blocked by BUSY (spec/70_reset_and_hazards.md R320) and the two resets (R310, R311). -/

namespace Sys2Proof.Machine

/-! ### The address map (R34, R80) -/

/-- The register at word `k` of the register window, offset 4k (R34); the other words are reserved (R46). -/
def regAt (k : Nat) : Option Reg :=
  match k with
  | 0 => some .id
  | 1 => some .version
  | 2 => some .param
  | 3 => some .ctrl
  | 4 => some .status
  | 5 => some .cmd
  | 6 => some .resLo
  | 7 => some .resHi
  | 16 => some .prePattern
  | 17 => some .preCfg
  | 18 => some .codeLen
  | 19 => some .chipRate
  | 20 => some .prnRanges
  | k =>
    if h : 8 ≤ k ∧ k < 16 then some (.arg ⟨k - 8, by omega⟩)
    else if h : 64 ≤ k ∧ k < 115 then some (.delayRom ⟨k - 64, by omega⟩)
    else none

/-- What a window offset addresses: nothing where it is misaligned, unmapped or reserved (R80, R82). -/
def targetOf (b : Build) (off : Offset) : Target :=
  let o := off.toNat
  if o % 4 ≠ 0 then .bad
  else if o < 0x400 then
    match regAt (o / 4) with
    | some r => .reg r
    | none => .bad
  else if 0x100000 ≤ o ∧ o < 0x100000 + b.bufBytes then .buf (o - 0x100000)
  else .bad

/-- PARAM (R37): BUFBITS in bits 4:0, NDELAY in bits 15:8. -/
def paramWord (b : Build) : Word := 0#16 ++ 51#8 ++ 0#3 ++ BitVec.ofNat 5 b.bufAddrBits

/-- PRE_PATTERN (R41): the bits above the string read 0 (log 20). -/
def prePatternWord (b : Build) : Word := b.prePattern &&& BitVec.ofNat 32 (2 ^ b.preNbits - 1)

/-- PRE_CFG (R42): PRE_LEN in bits 31:16, PRE_SPB in bits 15:8, PRE_NBITS in bits 5:0. -/
def preCfgWord (b : Build) : Word :=
  BitVec.ofNat 16 b.preLen ++ BitVec.ofNat 8 b.preSpb ++ 0#2 ++ BitVec.ofNat 6 b.preNbits

/-- What a host read of register `r` returns (R34). -/
def State.regValue (s : State) (r : Reg) : Word :=
  match r with
  | .id => 0x47434F52#32
  | .version => 0x00010000#32
  | .param => paramWord s.build
  | .ctrl => s.ctrl.toWord
  | .status => s.status.toWord
  | .cmd => s.lastCmd
  | .resLo => s.resLo
  | .resHi => s.resHi
  | .arg i => s.arg i
  | .prePattern => prePatternWord s.build
  | .preCfg => preCfgWord s.build
  | .codeLen => BitVec.ofNat 32 Config.codeLen
  | .chipRate => BitVec.ofNat 32 Config.chipRate
  | .prnRanges => 0x8A782001#32
  | .delayRom k => BitVec.ofNat 32 (delayRom k)

/-! ### Resets (R310, R311, R312) -/

/-- WRITE_RANGE(LAST_CMD, ARG) of R312 as its first offset and its length, 0 where it is empty. -/
def State.writeRange (s : State) : Nat × Nat :=
  match decode s.lastCmd with
  | .ok .genInt => if s.prnOk && s.dstOk 4 1023 then (s.dst, 4092) else (0, 0)
  | .ok .genReal => if s.prnOk && s.dstOk 4 1023 then (s.dst, 4092) else (0, 0)
  | .ok .genCplx => if s.prnOk && s.dstOk 8 1023 then (s.dst, 8184) else (0, 0)
  | .ok .genResamp => if s.prnOk && s.dstOk 8 s.samples then (s.dst, 8 * s.samples) else (0, 0)
  | .ok .nop => (0, 0)
  | .ok .discFll => (0, 0)
  | .ok .discPll4q => (0, 0)
  | .ok .discCostas => (0, 0)
  | .ok .discDll => (0, 0)
  | .ok .preCorr => (0, 0)
  | .error _ => (0, 0)

/-- BUF after the abort of the pending command: its whole write range is a fresh draw (R311, U6; log 6). -/
def State.abortedBuf (s : State) : Memory :=
  s.buf.writeBytes s.writeRange.1 (freeBytes s.draws s.writeRange.1 s.writeRange.2)

/-- Every register at its reset value (R60, R310, R311); the generator's working state is unspecified (log 7). -/
def State.clearRegisters (s : State) : State :=
  { s with
    ctrl := { ieDone := false, ieErr := false }
    status := Status.clear
    lastCmd := 0#32
    res := 0#64
    args := Vector.replicate 8 0#32
    gen := freeGenWork s.draws
    draws := s.draws + 1 }

/-- The soft reset of R311. -/
def State.softReset (s : State) : State :=
  { s.clearRegisters with buf := if s.status.busy then s.abortedBuf else s.buf }

/-- The power-on reset of R310: every byte of BUF is a fresh draw too. The host's program is not GCORE's and goes on
(log 17). -/
def State.powerOn (s : State) : State := { s.clearRegisters with buf := { fill := s.draws, cells := [] } }

/-! ### Host accesses (R82, R320) -/

/-- A host write of `w` to register `r` (R34, R46, R320). -/
def State.writeReg (s : State) (r : Reg) (w : Word) : State :=
  match r with
  | .ctrl => if w.getLsbD 31 then s.softReset else { s with ctrl := Ctrl.ofWord w }
  | .status => { s with status := s.status.writeOneToClear w }
  | .cmd => if s.status.busy then s.raise .ovr else s.accept w
  | .arg i => if s.status.busy then s.raise .ovr else s.setArg i w
  | .id => s.raise .hostErr
  | .version => s.raise .hostErr
  | .param => s.raise .hostErr
  | .resLo => s.raise .hostErr
  | .resHi => s.raise .hostErr
  | .prePattern => s.raise .hostErr
  | .preCfg => s.raise .hostErr
  | .codeLen => s.raise .hostErr
  | .chipRate => s.raise .hostErr
  | .prnRanges => s.raise .hostErr
  | .delayRom _ => s.raise .hostErr

/-- One 32-bit host write of `w` to window offset `off` (R81, R82, R320). -/
def hostWrite (off : Offset) (w : Word) (s : State) : State :=
  match targetOf s.build off with
  | .bad => s.raise .hostErr
  | .reg r => s.writeReg r w
  | .buf a => if s.status.busy then s.raise .ovr else { s with buf := s.buf.memWrite a 4 w }

/-- One 32-bit host read of window offset `off`: the value it returns and the state after it (R81, R82, R320). -/
def hostRead (off : Offset) (s : State) : Word × State :=
  match targetOf s.build off with
  | .bad => (0#32, s.raise .hostErr)
  | .reg r => (s.regValue r, s)
  | .buf a => if s.status.busy then (0#32, s.raise .ovr) else (BitVec.ofNat 32 (s.buf.memRead a 4), s)

/-! ### Host addresses (R10, R80, R82) -/

/-- PLAT_BASE, a 2 MiB-aligned 32-bit address (R10). -/
def platBase : Word := Config.platSlot ++ 0#21

/-- The window offset of a host address, if it is addressed to GCORE (R80, R82). -/
def busOffset (addr : Word) : Option Offset :=
  if addr.extractLsb' 21 11 = Config.platSlot then some (addr.extractLsb' 0 21) else none

/-- A host write to any host address: one outside the window is not GCORE's to observe (R82). -/
def busWrite (addr w : Word) (s : State) : State :=
  match busOffset addr with
  | some off => hostWrite off w s
  | none => s

/-- A host read of any host address; GCORE answers only inside the window (R82). -/
def busRead (addr : Word) (s : State) : Option Word × State :=
  match busOffset addr with
  | some off => (some (hostRead off s).1, (hostRead off s).2)
  | none => (none, s)

end Sys2Proof.Machine
end

