-- ==== Sys2Proof/Machine/HostProgram.lean ====
section
/-! DEFINITION. Host programs (spec/30_encoding.md R119, R120): the three primitive operations as steps of the host,
and the command pseudo-instructions as lists of them. -/

namespace Sys2Proof.Machine

/-- The binding of a name to the value read (R119); a name bound again keeps its newest value. -/
def bindName (name : Nat) (v : Word) (reads : List (Nat × Word)) : List (Nat × Word) :=
  (name, v) :: reads.filter fun p => decide (p.1 ≠ name)

/-- The host's step: its next transaction, or nothing when its program is over. `POLL` is one read, and stays until
the value matches (R119). The spec does not say whether POLL's `t` is bound when it has ended; here POLL binds no name
(DESIGN CHOICE, log 4). -/
def State.hostStep (s : State) : State :=
  match s.host with
  | [] => s
  | .write off w :: rest => { hostWrite off w s with host := rest }
  | .read off name :: rest =>
    { (hostRead off s).2 with host := rest, reads := bindName name (hostRead off s).1 s.reads }
  | .poll off mask value :: rest =>
    if (hostRead off s).1 &&& mask = value then { (hostRead off s).2 with host := rest } else (hostRead off s).2

/-- Offset of ARG[i] (R32). -/
def argOff (i : Nat) : Offset := BitVec.ofNat 21 (0x020 + 4 * i)

/-- Offset of CMD (R40). -/
def cmdOff : Offset := 0x014#21

/-- Offset of STATUS (R39). -/
def statusOff : Offset := 0x010#21

/-- Offset of CTRL (R38). -/
def ctrlOff : Offset := 0x00C#21

/-- BUF+a (R119). -/
def bufOff (a : Nat) : Offset := BitVec.ofNat 21 (0x100000 + a)

/-- `WAIT` (R120). -/
def pseudoWait : List HostOp := [.poll statusOff 0x00000001#32 0x00000000#32]

/-- `CLRST` (R120). -/
def pseudoClrst : List HostOp := [.write statusOff 0x000000FE#32]

/-- `SRST` (R120). -/
def pseudoSrst : List HostOp := [.write ctrlOff 0x80000000#32]

/-- `RDRES lo, hi` (R120). -/
def pseudoRdres (lo hi : Nat) : List HostOp := [.read 0x018#21 lo, .read 0x01C#21 hi]

/-- The ARG writes in ascending register order, then the CMD write, then the wait: the expansion of every command
pseudo-instruction (R120). -/
def pseudoCommand (i : Instr) (operands : List Word) : List HostOp :=
  (operands.zipIdx.map fun p => HostOp.write (argOff p.2) p.1) ++ [.write cmdOff (encode i)] ++ pseudoWait

/-- `NOP` (R120). -/
def pseudoNop : List HostOp := pseudoCommand .nop []

/-- `GEN_INT prn, shift, dst` (R120). -/
def pseudoGenInt (prn shift dst : Word) : List HostOp := pseudoCommand .genInt [prn, shift, dst]

/-- `GEN_REAL prn, shift, dst` (R120). -/
def pseudoGenReal (prn shift dst : Word) : List HostOp := pseudoCommand .genReal [prn, shift, dst]

/-- `GEN_CPLX prn, shift, dst` (R120). -/
def pseudoGenCplx (prn shift dst : Word) : List HostOp := pseudoCommand .genCplx [prn, shift, dst]

/-- `GEN_RESAMP prn, shift, dst, fs` (R120). -/
def pseudoGenResamp (prn shift dst fs : Word) : List HostOp := pseudoCommand .genResamp [prn, shift, dst, fs]

/-- `DISC_FLL i1, q1, i2, q2, t1, t2` (R120): the low word of a timestamp first. -/
def pseudoDiscFll (i1 q1 i2 q2 : B32) (t1 t2 : B64) : List HostOp :=
  pseudoCommand .discFll
    [i1, q1, i2, q2, t1.extractLsb' 0 32, t1.extractLsb' 32 32, t2.extractLsb' 0 32, t2.extractLsb' 32 32]

/-- `DISC_PLL4Q i, q` (R120). -/
def pseudoDiscPll4q (i q : B32) : List HostOp := pseudoCommand .discPll4q [i, q]

/-- `DISC_COSTAS i, q` (R120). -/
def pseudoDiscCostas (i q : B32) : List HostOp := pseudoCommand .discCostas [i, q]

/-- `DISC_DLL ei, eq, li, lq` (R120). -/
def pseudoDiscDll (ei eq li lq : B32) : List HostOp := pseudoCommand .discDll [ei, eq, li, lq]

/-- `PRE_CORR src` (R120). -/
def pseudoPreCorr (src : Word) : List HostOp := pseudoCommand .preCorr [src]

end Sys2Proof.Machine
end

