-- ==== Sys2Proof/Machine/Step.lean ====
section
/-! DEFINITION. One step of GCORE and its host: one step of one agent (spec/00_scope.md R19, spec/20_memory.md R89). -/

namespace Sys2Proof.Machine

/-- The turn `t` is taken (R19, R310). -/
def takeTurn (t : Turn) (s : State) : Host.Outcome State Fault Refusal :=
  match t with
  | .host => .next s.hostStep
  | .engine => engineTurn s
  | .powerOn => .next s.powerOn

/-- One step: the oldest of the turns laid down in the state; with none laid down, the engine when it is enabled (R263,
weak fairness), else the host (log 3). -/
def step (s : State) : Host.Outcome State Fault Refusal :=
  match s.turns with
  | t :: rest => takeTurn t { s with turns := rest }
  | [] => if s.status.busy then takeTurn .engine s else takeTurn .host s

/-- `s` with the command word whose `nbits` table bits are `w` pending and the engine's turn next, so that the next
step runs it (log 15). -/
def State.withFetchWord (s : State) (nbits w : Nat) : State := s.placeCommand (BitVec.ofNat 32 (w % 2 ^ nbits))

end Sys2Proof.Machine
end

