-- ==== Sys2Proof/Safety.lean ====
section
/-! DEFINITION. What claims call a sound state of GCORE, and what spec/70_reset_and_hazards.md R321 asks of a host. -/

namespace Sys2Proof.Machine

/-- What holds in every state of a real machine: the build is legal (R10); BUF is in its canonical form and lists
nothing outside BUF (R47); while a command is pending DONE is 0, because acceptance clears it and only completion sets
it (R39, R261, R262); and free values are drawn under fresh numbers (log 8). -/
structure State.Inv (s : State) : Prop where
  build_legal : s.build.wf = true
  buf_canonical : s.buf.wf
  buf_inside : ∀ c ∈ s.buf.cells, c.1 < s.build.bufBytes
  busy_not_done : s.status.busy = true → s.status.done = false
  draws_fresh : s.buf.fill < s.draws

/-- The host has to wait for completion before it makes this access: it writes ARG, BUF or CMD, or reads RES or BUF
(R321). -/
def hostOpWaits (b : Build) (op : HostOp) : Bool :=
  match op with
  | .write off _ =>
    match targetOf b off with
    | .buf _ => true
    | .reg .cmd => true
    | .reg (.arg _) => true
    | .reg _ => false
    | .bad => false
  | .read off _ =>
    match targetOf b off with
    | .buf _ => true
    | .reg .resLo => true
    | .reg .resHi => true
    | .reg _ => false
    | .bad => false
  | .poll off _ _ =>
    match targetOf b off with
    | .buf _ => true
    | .reg .resLo => true
    | .reg .resHi => true
    | .reg _ => false
    | .bad => false

/-- The host's next transaction keeps the duties of R321 in this state. -/
def State.dutiful (s : State) : Bool :=
  match s.host with
  | [] => true
  | op :: _ => !(s.status.busy && hostOpWaits s.build op)

/-- No condition has been reported: every error and warning flag of STATUS is 0 (R270). -/
def State.clean (s : State) : Bool :=
  !(s.status.errPrn || s.status.warnPrn || s.status.errAddr || s.status.errCmd || s.status.ovr || s.status.hostErr)

end Sys2Proof.Machine
end

