-- ==== Sys2Proof/Certificates/Slice0/Obligations.lean ====
section
/-! DEFINITION. The statements for the provers, each a proposition about the model, with the rules of spec/ it rests on.
Nothing here is proved. -/

open Sys2Proof Sys2Proof.Machine

/-! ### The vocabulary of the statements -/

namespace Sys2Proof.Claims

/-- The PRN check of R141 and R142, as a condition on ARG0. -/
def prnInTable (s : State) : Prop :=
  let prn := (s.arg 0).toInt
  (1 ≤ prn ∧ prn ≤ 51) ∨ (120 ≤ prn ∧ prn ≤ 138)

/-- The table index of a PRN in the table: R141 with the two ranges written out. -/
def indexOfPrn (s : State) : Nat :=
  let prn := (s.arg 0).toInt
  if 120 ≤ prn then (prn - 88).toNat else (prn - 1).toNat

/-- The range check of R84 for `n` elements of `size` bytes at ARG2. -/
def dstInside (s : State) (size n : Nat) : Prop :=
  n = 0 ∨ ((s.arg 2).toNat % size = 0 ∧ (s.arg 2).toNat + n * size ≤ 2 ^ s.build.bufAddrBits)

/-- What a command leaves alone whatever it is: the build, CTRL, LAST_CMD, every ARG register, the host's and the
schedule's own data, BUSY and DONE (which completion changes afterwards), and the flags of other causes. -/
def commandFrame (s t : State) : Prop :=
  t.build = s.build ∧ t.ctrl = s.ctrl ∧ t.lastCmd = s.lastCmd ∧ t.args = s.args ∧ t.turns = s.turns ∧
    t.host = s.host ∧ t.reads = s.reads ∧ t.status.busy = s.status.busy ∧ t.status.done = s.status.done ∧
    t.status.errCmd = s.status.errCmd ∧ t.status.ovr = s.status.ovr ∧ t.status.hostErr = s.status.hostErr

open Classical in
/-- Command `i` answers a next state and writes `n s` elements of `size` bytes, element `p` being `enc` of the chip at
position `pos s p` of the code of ARG0 with the chip shift ARG1, at ARG2 + size * p, when the PRN and the range check
pass; otherwise it writes nothing. RES is the number of elements written; the flags are those of the two checks; every
other byte and register is unchanged (R141 to R143, R84, R148, R149, R183). -/
def writesWaveform (i : Instr) (size : Nat) (n : State → Nat) (pos : State → Nat → Nat) (enc : Int → Nat) : Prop :=
  ∀ s : State, ∃ t : State, exec i s = .next t ∧ commandFrame s t ∧
    (prnInTable s ∧ dstInside s size (n s) →
      t.res.toNat = n s ∧
        ∀ p, p < n s → t.buf.memRead ((s.arg 2).toNat + size * p) size =
          enc (chip (indexOfPrn s) (s.arg 1).toNat (pos s p))) ∧
    (¬ (prnInTable s ∧ dstInside s size (n s)) → t.res = 0#64 ∧ ∀ a, t.buf.byte a = s.buf.byte a) ∧
    (∀ a, a < (s.arg 2).toNat ∨ (s.arg 2).toNat + n s * size ≤ a → t.buf.byte a = s.buf.byte a) ∧
    t.status.errPrn = (s.status.errPrn || decide (¬ prnInTable s)) ∧
    t.status.warnPrn = (s.status.warnPrn || decide (33 ≤ (s.arg 0).toInt ∧ (s.arg 0).toInt ≤ 51)) ∧
    t.status.errAddr = (s.status.errAddr || decide (¬ dstInside s size (n s)))

/-- The number of samples for ARG3 (R180). -/
def samplesOf (s : State) : Nat := if 1000 ≤ (s.arg 3).toInt then (s.arg 3).toInt.toNat / 1000 else 0

/-- The four generation commands. -/
def isGen (i : Instr) : Prop := i = .genInt ∨ i = .genReal ∨ i = .genCplx ∨ i = .genResamp

/-- The four discriminators. -/
def isDisc (i : Instr) : Prop := i = .discFll ∨ i = .discPll4q ∨ i = .discCostas ∨ i = .discDll

/-- The cross-correlation X(a, b, k) of R155. -/
def correlation (a b k : Nat) : Int :=
  ((List.range 1023).map fun p => chip a 0 p * chip b 0 ((p + k) % 1023)).sum

/-- The real number a finite value stands for. -/
noncomputable def realValue (neg : Bool) (m : Nat) (e : Int) : ℝ := (if neg then -1 else 1) * (m : ℝ) * (2 : ℝ) ^ e

/-- `r` is the real number `v` rounded to binary64, to nearest, ties to even: no finite binary64 is nearer, and on a tie
the last bit is 0; ±∞ exactly from the midpoint above the largest finite number on. -/
def roundsTo (v : ℝ) (r : B64) : Prop :=
  match unpack64 r with
  | .nan => False
  | .inf neg => (2 : ℝ) ^ 1024 - (2 : ℝ) ^ 970 ≤ |v| ∧ (neg = true ↔ v < 0)
  | .fin neg m e =>
    |v| < (2 : ℝ) ^ 1024 - (2 : ℝ) ^ 970 ∧
      ∀ z neg' m' e', unpack64 z = .fin neg' m' e' →
        |v - realValue neg m e| ≤ |v - realValue neg' m' e'| ∧
          (|v - realValue neg m e| = |v - realValue neg' m' e'| → realValue neg m e ≠ realValue neg' m' e' →
            r.getLsbD 0 = false)

/-- The unit in the last place of a binary64 at the real number `v`. -/
noncomputable def ulpAt (v : ℝ) : ℝ := (2 : ℝ) ^ (max (Int.log 2 |v| - 52) (-1074))

/-- The unit encodings of the word that a host reads from STATUS (R39). -/
def statusBits (f : Status) : List Bool :=
  [f.busy, f.done, f.errPrn, f.warnPrn, f.errAddr, f.errCmd, f.ovr, f.hostErr]

/-- The offsets that R80, R34 and R46 map: a register of the register map or an aligned offset of the BUF window. -/
def mapped (b : Build) (o : Nat) : Prop :=
  o % 4 = 0 ∧ (o ≤ 0x050 ∨ (0x100 ≤ o ∧ o ≤ 0x1C8) ∨ (0x100000 ≤ o ∧ o < 0x100000 + 2 ^ b.bufAddrBits))

/-- The offsets of the read-only registers of R46. -/
def readOnly (o : Nat) : Prop :=
  o = 0x000 ∨ o = 0x004 ∨ o = 0x008 ∨ o = 0x018 ∨ o = 0x01C ∨ (0x040 ≤ o ∧ o ≤ 0x050) ∨ (0x100 ≤ o ∧ o ≤ 0x1C8)

/-- The offset is one of the BUF window's (R80). -/
def inBufWindow (b : Build) (o : Nat) : Prop := 0x100000 ≤ o ∧ o < 0x100000 + 2 ^ b.bufAddrBits

end Sys2Proof.Claims

open Sys2Proof.Claims

/-! ### Encoding -/

/-- The words of R111 decode to their commands, and a few illegal words of R112 to none. -/
def Obligations.TableWordsDecode : Prop :=
  decode 0x00000000#32 = .ok .nop ∧ decode 0x00000001#32 = .ok .genInt ∧ decode 0x00000002#32 = .ok .genReal ∧
    decode 0x00000003#32 = .ok .genCplx ∧ decode 0x00000004#32 = .ok .genResamp ∧
    decode 0x00000010#32 = .ok .discFll ∧ decode 0x00000011#32 = .ok .discPll4q ∧
    decode 0x00000012#32 = .ok .discCostas ∧ decode 0x00000013#32 = .ok .discDll ∧
    decode 0x00000020#32 = .ok .preCorr ∧ decode 0x00000005#32 = .error .reservedOp ∧
    decode 0x00000101#32 = .error .reservedBits ∧ decode 0xFFFFFFFF#32 = .error .reservedBits

/-- R110, R111: a word is a command exactly when all 32 of its bits are those of the table's row, for every word. -/
def Obligations.LegalWordsAreTheTable : Prop :=
  ∀ w : Word,
    (decode w = .ok .nop ↔ w.toNat = 0x00) ∧ (decode w = .ok .genInt ↔ w.toNat = 0x01) ∧
    (decode w = .ok .genReal ↔ w.toNat = 0x02) ∧ (decode w = .ok .genCplx ↔ w.toNat = 0x03) ∧
    (decode w = .ok .genResamp ↔ w.toNat = 0x04) ∧ (decode w = .ok .discFll ↔ w.toNat = 0x10) ∧
    (decode w = .ok .discPll4q ↔ w.toNat = 0x11) ∧ (decode w = .ok .discCostas ↔ w.toNat = 0x12) ∧
    (decode w = .ok .discDll ↔ w.toNat = 0x13) ∧ (decode w = .ok .preCorr ↔ w.toNat = 0x20)

/-- Decoding gives back every encoded command, through the word and through the table's bit numbering. -/
def Obligations.DecodeOfEncode : Prop :=
  ∀ i : Instr, i.wf = true → decode (encode i) = .ok i ∧ decodeTableWord 32 (encode i).toNat = some i

/-! ### The command life cycle -/

/-- R262: the engine's step is enabled exactly while BUSY = 1; it runs the command rule of a legal word, or raises
ERR_CMD for an illegal one, then clears BUSY and sets DONE, all in one step. Stated where the engine's turn is next. -/
def Obligations.StepRunsThePendingCommand : Prop :=
  (∀ (s t : State) (i : Instr) (rest : List Turn), s.status.busy = true → decode s.lastCmd = .ok i →
    s.turns = .engine :: rest → exec i { s with turns := rest } = .next t →
      step s = .next { t with status := { t.status with busy := false, done := true } }) ∧
  (∀ (s : State) (e : Illegal) (rest : List Turn), s.status.busy = true → decode s.lastCmd = .error e →
    s.turns = .engine :: rest →
      step s = .next { s with
        turns := rest, status := { s.status with errCmd := true, busy := false, done := true } }) ∧
  (∀ (s : State) (rest : List Turn), s.status.busy = false → s.turns = .engine :: rest →
    step s = .next { s with turns := rest })

/-- R112: every word but the ten of R111 is illegal; it is accepted like any command, and its completion raises ERR_CMD,
clears BUSY, sets DONE, and touches nothing else. -/
def Obligations.IllegalWordOnlyRaisesErrCmd : Prop :=
  ∀ (s : State) (w : Word) (rest : List Turn),
    w.toNat ∉ [0x00, 0x01, 0x02, 0x03, 0x04, 0x10, 0x11, 0x12, 0x13, 0x20] → s.status.busy = false →
    s.turns = .engine :: rest →
      hostWrite 0x014#21 w s = { s with lastCmd := w, status := { s.status with busy := true, done := false } } ∧
      step (hostWrite 0x014#21 w s) = .next { s with
        turns := rest, lastCmd := w,
        status := { s.status with errCmd := true, busy := false, done := true } }

/-- R261: a write of w to CMD while BUSY = 0 sets LAST_CMD and BUSY and clears DONE, and does nothing else; while
BUSY = 1 it changes nothing but OVR. -/
def Obligations.AcceptanceIsOneHostStep : Prop :=
  ∀ (s : State) (w : Word),
    (s.status.busy = false → hostWrite 0x014#21 w s =
      { s with lastCmd := w, status := { s.status with busy := true, done := false } }) ∧
    (s.status.busy = true → hostWrite 0x014#21 w s = { s with status := { s.status with ovr := true } })

/-- R260: word 0x00000000 is NOP; it does nothing beyond completion; written to an idle GCORE and completed it leaves
every register but STATUS and LAST_CMD as it was; written while BUSY = 1 it is dropped and sets OVR. -/
def Obligations.NopDoesNothingBeyondCompletion : Prop :=
  decode 0x00000000#32 = .ok .nop ∧ (∀ s : State, exec .nop s = .next s) ∧
  (∀ (s : State) (rest : List Turn), s.status.busy = false → s.turns = .engine :: rest →
    step (hostWrite 0x014#21 0x00000000#32 s) = .next { s with
      turns := rest, lastCmd := 0x00000000#32, status := { s.status with busy := false, done := true } }) ∧
  (∀ (s : State) (rest : List Turn), s.status.busy = true → s.lastCmd = 0x00000000#32 →
    s.turns = .engine :: rest →
      step s = .next { s with turns := rest, status := { s.status with busy := false, done := true } }) ∧
  (∀ s : State, s.status.busy = true →
    hostWrite 0x014#21 0x00000000#32 s = { s with status := { s.status with ovr := true } })

/-- From every state with a command pending, whatever turns are laid down, within one more step than there are turns
the command completes (BUSY 0, DONE 1, LAST_CMD kept), or a reset has discarded it; with no power-on turn laid down and
no write of SRST in the host's program it completes; and with no turn laid down the very next step is the command's
own (R263: "unless a reset intervenes"). That the engine moves when no turn is laid down is the model's choice (log 3);
the rule asks for weak fairness only. -/
def Obligations.PendingCommandCompletes : Prop :=
  (∀ s : State, s.status.busy = true →
    ∃ (n : Nat) (t : State), n ≤ s.turns.length + 1 ∧ Host.Core.run Sys2Proof.core n s = .next t ∧
      t.status.busy = false ∧
      ((t.status.done = true ∧ t.lastCmd = s.lastCmd) ∨ (t.status = Status.clear ∧ t.lastCmd = 0#32 ∧ t.res = 0#64))) ∧
  (∀ s : State, s.status.busy = true → (∀ x ∈ s.turns, x ≠ .powerOn) →
    (∀ w, .write 0x00C#21 w ∈ s.host → w.getLsbD 31 = false) →
      ∃ (n : Nat) (t : State), n ≤ s.turns.length + 1 ∧ Host.Core.run Sys2Proof.core n s = .next t ∧
        t.status.busy = false ∧ t.status.done = true ∧ t.lastCmd = s.lastCmd) ∧
  (∀ (s t : State) (i : Instr), s.status.busy = true → decode s.lastCmd = .ok i → s.turns = [] →
    exec i s = .next t → step s = .next { t with status := { t.status with busy := false, done := true } })

/-- Commands are deterministic (R264): in two states that agree on ARG, BUF and the build, and on nothing else
(STATUS, RES, CTRL, LAST_CMD, the generator's working state, the draws and the host may differ), a command leaves the
same bytes in BUF, raises the same conditions, leaves BUSY and DONE alone, and leaves the same RES; NOP, which has no
result, leaves each RES as it was. -/
def Obligations.CommandsDependOnOperandsOnly : Prop :=
  ∀ (i : Instr) (s s' t t' : State), s.args = s'.args → s.build = s'.build →
    (∀ a, s.buf.byte a = s'.buf.byte a) → exec i s = .next t → exec i s' = .next t' →
      (∀ a, t.buf.byte a = t'.buf.byte a) ∧
      (i ≠ .nop → t.res = t'.res) ∧ (i = .nop → t.res = s.res ∧ t'.res = s'.res) ∧
      (∃ raised : Condition → Bool, ∀ c : Condition,
        t.status.has c = (s.status.has c || raised c) ∧ t'.status.has c = (s'.status.has c || raised c)) ∧
      t.status.busy = s.status.busy ∧ t'.status.busy = s'.status.busy ∧
      t.status.done = s.status.done ∧ t'.status.done = s'.status.done

/-- No command writes ARG, CTRL, LAST_CMD or a flag of another cause, none clears a flag, and none changes what is not
GCORE's (R32, R114, R272). -/
def Obligations.CommandsKeepTheirFrame : Prop :=
  ∀ (i : Instr) (s t : State), exec i s = .next t →
    commandFrame s t ∧ ∀ c : Condition, s.status.has c = true → t.status.has c = true

/-! ### Code generator and resampler -/

/-- GEN_INT (R150, R149): 1023 i32 elements. -/
def Obligations.GenIntWritesTheCode : Prop :=
  writesWaveform .genInt 4 (fun _ => 1023) (fun _ p => p) (fun c => if c = 1 then 0x00000001 else 0xFFFFFFFF)

/-- GEN_REAL (R151, R149): 1023 b32 elements. -/
def Obligations.GenRealWritesTheCode : Prop :=
  writesWaveform .genReal 4 (fun _ => 1023) (fun _ p => p) (fun c => if c = 1 then 0x3F800000 else 0xBF800000)

/-- GEN_CPLX (R152, R149): 1023 complex elements, real part +0.0, imaginary part the chip. -/
def Obligations.GenCplxWritesTheCode : Prop :=
  writesWaveform .genCplx 8 (fun _ => 1023) (fun _ p => p)
    (fun c => if c = 1 then 0x3F80000000000000 else 0xBF80000000000000)

/-- GEN_RESAMP (R183, R181): N complex elements, the last of chip 1022, the others of chip
ceil((i+1) * 1023000 / fs) − 1. -/
def Obligations.GenResampWritesTheSamples : Prop :=
  writesWaveform .genResamp 8 samplesOf
    (fun s i => if i + 1 = samplesOf s then 1022
      else ((i + 1) * 1023000 + (s.arg 3).toInt.toNat - 1) / (s.arg 3).toInt.toNat - 1)
    (fun c => if c = 1 then 0x3F80000000000000 else 0xBF80000000000000)

/-- R145 (which the spec derives from R144) and R48: from all-true registers, whatever the sequences held before, 1023 iterations leave the closed form of
G1seq and G2seq, and both registers all-true again. -/
def Obligations.WorkingSequencesHaveTheClosedForm : Prop :=
  ∀ w : GenWork, w.g1 = 0x3FF#10 → w.g2 = 0x3FF#10 →
    let q := genIterate 1023 0 w
    (∀ n, n ≤ 9 → q.g1seq.getLsbD n = true ∧ q.g2seq.getLsbD n = true) ∧
    (∀ n, 10 ≤ n → n ≤ 1022 →
      q.g1seq.getLsbD n = (q.g1seq.getLsbD (n - 3) ^^ q.g1seq.getLsbD (n - 10)) ∧
      q.g2seq.getLsbD n = (q.g2seq.getLsbD (n - 2) ^^ q.g2seq.getLsbD (n - 3) ^^ q.g2seq.getLsbD (n - 6) ^^
        q.g2seq.getLsbD (n - 8) ^^ q.g2seq.getLsbD (n - 9) ^^ q.g2seq.getLsbD (n - 10))) ∧
    q.g1 = 0x3FF#10 ∧ q.g2 = 0x3FF#10

/-- The document's own chip formula, with the chip shift not reduced before the sums (R146 to R148), for every valid
index, every shift and every position; and every chip is +1 or −1. -/
def Obligations.ChipsFollowTheDocumentsFormula : Prop :=
  ∀ idx shift p : Nat, idx ≤ 50 → p ≤ 1022 →
    chip idx shift p =
      (if generated.g1seq.getLsbD ((p + shift) % 1023) ^^
        generated.g2seq.getLsbD ((1023 - delayRom idx + shift + p) % 1023) then 1 else -1) ∧
    (chip idx shift p = 1 ∨ chip idx shift p = -1)

/-- A chip shift rotates the code (R153, which the spec derives from R146 to R148). -/
def Obligations.ChipShiftRotatesTheCode : Prop :=
  ∀ idx shift p : Nat, idx ≤ 50 → p ≤ 1022 → chip idx shift p = chip idx 0 ((p + shift) % 1023)

/-- Zero-lag autocorrelation 1023, every other correlation −65, −1 or 63, and every code sums to +1 (R155, which the
spec derives by evaluating R148 with its DELAY_ROM values, [from general knowledge, not in source]). -/
def Obligations.CodesCorrelateAsGoldCodes : Prop :=
  ∀ a b k : Nat, a ≤ 50 → b ≤ 50 → k ≤ 1022 →
    correlation a a 0 = 1023 ∧
    (a ≠ b ∨ k ≠ 0 → correlation a b k = -65 ∨ correlation a b k = -1 ∨ correlation a b k = 63) ∧
    ((List.range 1023).map fun p => chip a 0 p).sum = 1

/-- PRN 33 + j gives the code of PRN 120 + j and sets WARN_PRN, for every generation command (R143). -/
def Obligations.AliasedPrnsGiveTheSbasCode : Prop :=
  ∀ (i : Instr) (s : State) (j : Nat), isGen i → j ≤ 18 →
    ∃ t t' : State, exec i (s.setArg 0 (BitVec.ofNat 32 (33 + j))) = .next t ∧
      exec i (s.setArg 0 (BitVec.ofNat 32 (120 + j))) = .next t' ∧
      t.buf = t'.buf ∧ t.res = t'.res ∧ t.status.warnPrn = true ∧ t'.status.warnPrn = s.status.warnPrn

/-- The invalid-identifier contract (R156, derived in the spec from R141, R142, R149): PRN 0 and PRN 200 leave every byte of BUF as it was, RES becomes 0 and ERR_PRN 1. -/
def Obligations.InvalidPrnWritesNothing : Prop :=
  ∀ (i : Instr) (s : State), isGen i → s.arg 0 = 0#32 ∨ s.arg 0 = 200#32 →
    ∃ t : State, exec i s = .next t ∧ (∀ a, t.buf.byte a = s.buf.byte a) ∧ t.res = 0#64 ∧ t.status.errPrn = true

/-- The sample count of R180 is the document's floor for fs ≥ 0, 0 for every fs < 1000, and at most 2,147,483. -/
def Obligations.SampleCountIsTheDocumentsFloor : Prop :=
  ∀ w : Word,
    (0 ≤ w.toInt → sampleCount w.toInt = (w.toInt.toNat * 1023) / 1023000) ∧
    (w.toInt < 1000 → sampleCount w.toInt = 0) ∧ sampleCount w.toInt ≤ 2147483

/-- The source index is the exact ceiling, lies in 0..1022 and does not decrease before the last sample (R181, R182). -/
def Obligations.SourceIndexIsTheExactCeiling : Prop :=
  ∀ fs i : Nat, 1000 ≤ fs → i < fs / 1000 →
    srcIdx fs (fs / 1000) i ≤ 1022 ∧
    (i + 1 = fs / 1000 → srcIdx fs (fs / 1000) i = 1022) ∧
    (i + 1 ≠ fs / 1000 → ((srcIdx fs (fs / 1000) i : ℤ)) = ⌈(((i : ℚ) + 1) * 1023000) / (fs : ℚ)⌉ - 1) ∧
    (∀ j, j ≤ i → i + 2 ≤ fs / 1000 → srcIdx fs (fs / 1000) j ≤ srcIdx fs (fs / 1000) i)

/-- At the chip rate GEN_RESAMP writes what GEN_CPLX writes, and at twice the chip rate each chip twice (R183). -/
def Obligations.ResamplingAtTheChipRateIsTheCode : Prop :=
  (∀ (s t u : State), s.arg 3 = 1023000#32 → exec .genResamp s = .next t → exec .genCplx s = .next u →
    t.buf = u.buf ∧ t.res = u.res ∧ t.status = u.status) ∧
  (∀ i : Nat, i < 2046 → srcIdx 2046000 2046 i = i / 2)

/-! ### Discriminators -/

/-- The closed forms of the four discriminators over the primitive operations; nothing but RES changes (R200, R203,
R210 to R213). -/
def Obligations.DiscriminatorsComputeTheirFormulas : Prop :=
  ∀ s : State,
    let x0 := to64 (s.arg 0)
    let x1 := to64 (s.arg 1)
    let x2 := to64 (s.arg 2)
    let x3 := to64 (s.arg 3)
    let t1 : B64 := s.arg 5 ++ s.arg 4
    let t2 : B64 := s.arg 7 ++ s.arg 6
    exec .discFll s = .next { s with res := canon (div64
      (atan2 s.build (sub64 (mul64 x0 x3) (mul64 x2 x1)) (add64 (mul64 x0 x2) (mul64 x1 x3))) (sub64 t1 t2)) } ∧
    exec .discPll4q s = .next { s with res := canon (atan2 s.build x1 x0) } ∧
    exec .discCostas s = .next { s with res := canon (atan s.build (div64 x1 x0)) } ∧
    exec .discDll s = .next { s with res := canon (div64
      (sub64 (sqrt64 (add64 (mul64 x0 x0) (mul64 x1 x1))) (sqrt64 (add64 (mul64 x2 x2) (mul64 x3 x3))))
      (add64 (sqrt64 (add64 (mul64 x0 x0) (mul64 x1 x1))) (sqrt64 (add64 (mul64 x2 x2) (mul64 x3 x3))))) }

/-- The document's literal cases (R214, derived in the spec from R201, R210, R211, R213). The first and third are exact in every build, the second in the reference
configuration, and within 1 ulp of π/4 in every build. -/
def Obligations.LiteralDiscriminatorCases : Prop :=
  ∀ s : State,
    (s.args = #v[0x3F800000#32, 0#32, 0#32, 0x3F800000#32, 0#32, 0#32, 0#32, 0x3FF00000#32] →
      exec .discFll s = .next { s with res := 0xBFF921FB54442D18#64 }) ∧
    (s.arg 0 = 0x3F800000#32 → s.arg 1 = 0x3F800000#32 →
      (s.build.arctanReference = true → exec .discPll4q s = .next { s with res := 0x3FE921FB54442D18#64 }) ∧
      ∃ t, exec .discPll4q s = .next t ∧ (t.res = 0x3FE921FB54442D18#64 ∨ t.res = 0x3FE921FB54442D19#64)) ∧
    (s.arg 0 = 0x40000000#32 → s.arg 1 = 0#32 → s.arg 2 = 0x3F800000#32 → s.arg 3 = 0#32 →
      exec .discDll s = .next { s with res := 0x3FD5555555555555#64 })

/-- The special cases of ATAN2_64 and ATAN_64, for every build (R201 (b), R202 (b)). -/
def Obligations.ArctangentSpecialCases : Prop :=
  ∀ (b : Build) (x y : B64),
    (unpack64 y = .nan ∨ unpack64 x = .nan → unpack64 (atan2 b y x) = .nan) ∧
    (unpack64 y ≠ .nan → unpack64 x ≠ .nan →
      (magBits y = 0 → atan2 b y x = withSign (sign64 y) (if sign64 x then 0x400921FB54442D18 else 0)) ∧
      (magBits y ≠ 0 → magBits x = 0 → atan2 b y x = withSign (sign64 y) 0x3FF921FB54442D18) ∧
      (magBits y < infBits → magBits x = infBits →
        atan2 b y x = withSign (sign64 y) (if sign64 x then 0x400921FB54442D18 else 0)) ∧
      (magBits y = infBits → magBits x < infBits → atan2 b y x = withSign (sign64 y) 0x3FF921FB54442D18) ∧
      (magBits y = infBits → magBits x = infBits →
        atan2 b y x = withSign (sign64 y) (if sign64 x then 0x4002D97C7F3321D2 else 0x3FE921FB54442D18))) ∧
    (unpack64 x = .nan → unpack64 (atan b x) = .nan) ∧
    (magBits x = 0 → atan b x = x) ∧
    (magBits x = infBits → atan b x = withSign (sign64 x) 0x3FF921FB54442D18)

/-- ATAN2_64 is odd in y and ATAN_64 is odd, and both stay in their ranges, for every build (R201 (c), (d), R202 (c),
(d)). -/
def Obligations.ArctangentsAreOddAndBounded : Prop :=
  ∀ (b : Build) (x y : B64),
    (unpack64 y ≠ .nan → unpack64 x ≠ .nan →
      atan2 b (neg64 y) x = neg64 (atan2 b y x) ∧ magBits (atan2 b y x) ≤ 0x400921FB54442D18) ∧
    (unpack64 x ≠ .nan → atan b (neg64 x) = neg64 (atan b x) ∧ magBits (atan b x) ≤ 0x3FF921FB54442D18)

/-- ATAN2_64 and ATAN_64 of finite non-zero operands are finite and within 1 ulp of the exact angle, for every build
(R201 (a), R202 (a)). That the unit is taken at the exact angle is the model's choice (log 13). -/
def Obligations.ArctangentsAreWithinOneUlp : Prop :=
  ∀ (b : Build) (x y : B64) (ny nx : Bool) (my mx : Nat) (ey ex : Int),
    unpack64 y = .fin ny my ey → my ≠ 0 →
      (unpack64 x = .fin nx mx ex → mx ≠ 0 →
        ∃ n m e, unpack64 (atan2 b y x) = .fin n m e ∧
          |realValue n m e - Complex.arg ⟨realValue nx mx ex, realValue ny my ey⟩| ≤
            ulpAt (Complex.arg ⟨realValue nx mx ex, realValue ny my ey⟩)) ∧
      (∃ n m e, unpack64 (atan b y) = .fin n m e ∧
        |realValue n m e - Real.arctan (realValue ny my ey)| ≤ ulpAt (Real.arctan (realValue ny my ey)))

/-- Widening a binary32 is exact, and so is the product of two widened binary32 values (R200; the formats are those of
IEEE 754, log 10). -/
def Obligations.WidenedProductsAreExact : Prop :=
  ∀ (a b : B32) (n1 n2 : Bool) (m1 m2 : Nat) (e1 e2 : Int),
    unpack32 a = .fin n1 m1 e1 → unpack32 b = .fin n2 m2 e2 →
      (∃ m e, unpack64 (to64 a) = .fin n1 m e ∧ realValue n1 m e = realValue n1 m1 e1) ∧
      (∃ m e, unpack64 (mul64 (to64 a) (to64 b)) = .fin (n1 ^^ n2) m e ∧
        realValue (n1 ^^ n2) m e = realValue n1 m1 e1 * realValue n2 m2 e2)

/-- add64, sub64, mul64, div64 and sqrt64 of finite operands are the exact result rounded once, to nearest, ties to
even; subnormals are kept (R17, R200; what IEEE 754 asks of an operation is general knowledge, log 10). -/
def Obligations.OperationsRoundToNearestEven : Prop :=
  ∀ (x y : B64) (n1 n2 : Bool) (m1 m2 : Nat) (e1 e2 : Int),
    unpack64 x = .fin n1 m1 e1 → unpack64 y = .fin n2 m2 e2 →
      roundsTo (realValue n1 m1 e1 + realValue n2 m2 e2) (add64 x y) ∧
      roundsTo (realValue n1 m1 e1 - realValue n2 m2 e2) (sub64 x y) ∧
      roundsTo (realValue n1 m1 e1 * realValue n2 m2 e2) (mul64 x y) ∧
      (m2 ≠ 0 → roundsTo (realValue n1 m1 e1 / realValue n2 m2 e2) (div64 x y)) ∧
      (n1 = false ∨ m1 = 0 → roundsTo (Real.sqrt (realValue n1 m1 e1)) (sqrt64 x))

/-- The special-value results of the IEEE operations: a NaN operand and an invalid operation give a NaN, infinities
and signed zeros keep their signs, zero products and quotients take the sign of IEEE 754, and an exact zero sum of
opposite signs is +0. R17 says only that these results are IEEE 754's; the particular values are general knowledge
(PRESUMED, log 10). -/
def Obligations.IeeeSpecialValues : Prop :=
  ∀ x y : B64,
    (unpack64 x = .nan ∨ unpack64 y = .nan →
      unpack64 (add64 x y) = .nan ∧ unpack64 (sub64 x y) = .nan ∧ unpack64 (mul64 x y) = .nan ∧
        unpack64 (div64 x y) = .nan) ∧
    (magBits x = infBits → magBits y = infBits →
      (sign64 x = sign64 y → add64 x y = x ∧ unpack64 (sub64 x y) = .nan) ∧
      (sign64 x ≠ sign64 y → unpack64 (add64 x y) = .nan ∧ sub64 x y = x) ∧
      mul64 x y = withSign (sign64 x ^^ sign64 y) infBits ∧ unpack64 (div64 x y) = .nan) ∧
    (magBits x = infBits → magBits y < infBits →
      add64 x y = x ∧ add64 y x = x ∧ sub64 x y = x ∧ sub64 y x = neg64 x ∧
      div64 x y = withSign (sign64 x ^^ sign64 y) infBits ∧ div64 y x = withSign (sign64 x ^^ sign64 y) 0 ∧
      (magBits y = 0 → unpack64 (mul64 x y) = .nan ∧ unpack64 (mul64 y x) = .nan) ∧
      (magBits y ≠ 0 → mul64 x y = withSign (sign64 x ^^ sign64 y) infBits ∧
        mul64 y x = withSign (sign64 x ^^ sign64 y) infBits)) ∧
    (magBits x < infBits → magBits y = 0 →
      mul64 x y = withSign (sign64 x ^^ sign64 y) 0 ∧ mul64 y x = withSign (sign64 x ^^ sign64 y) 0 ∧
      (magBits x = 0 → unpack64 (div64 x y) = .nan ∧ add64 x y = withSign (sign64 x && sign64 y) 0 ∧
        sub64 x y = withSign (sign64 x && !sign64 y) 0) ∧
      (magBits x ≠ 0 → div64 x y = withSign (sign64 x ^^ sign64 y) infBits ∧
        div64 y x = withSign (sign64 x ^^ sign64 y) 0 ∧ add64 x y = x ∧ add64 y x = x ∧ sub64 x y = x ∧
        sub64 y x = neg64 x)) ∧
    (magBits x < infBits → sub64 x x = 0#64 ∧ add64 x (neg64 x) = 0#64) ∧
    (unpack64 x = .nan → unpack64 (sqrt64 x) = .nan) ∧
    (magBits x = 0 → sqrt64 x = x) ∧
    (magBits x ≠ 0 → sign64 x = true → unpack64 (sqrt64 x) = .nan) ∧
    (x = 0x7FF0000000000000#64 → sqrt64 x = x)

/-- Swapping the timestamps of DISC_FLL negates a result that is no NaN, when they are finite and differ (R210). -/
def Obligations.SwappingTimestampsNegatesFll : Prop :=
  ∀ (s : State) (r : B64) (n1 n2 : Bool) (m1 m2 : Nat) (e1 e2 : Int),
    unpack64 (s.arg 5 ++ s.arg 4) = .fin n1 m1 e1 → unpack64 (s.arg 7 ++ s.arg 6) = .fin n2 m2 e2 →
    realValue n1 m1 e1 ≠ realValue n2 m2 e2 → exec .discFll s = .next { s with res := r } →
      let u := (((s.setArg 4 (s.arg 6)).setArg 5 (s.arg 7)).setArg 6 (s.arg 4)).setArg 7 (s.arg 5)
      exec .discFll u = .next { u with res := if r = 0x7FF8000000000000#64 then r else neg64 r }

/-- The signs of the components do not matter to DISC_DLL (R213). -/
def Obligations.DllIgnoresComponentSigns : Prop :=
  ∀ (s t : State) (f0 f1 f2 f3 : Bool), exec .discDll s = .next t →
    let flip := fun (f : Bool) (w : Word) => if f then w ^^^ 0x80000000#32 else w
    ∃ u : State, exec .discDll ((((s.setArg 0 (flip f0 (s.arg 0))).setArg 1 (flip f1 (s.arg 1))).setArg 2
        (flip f2 (s.arg 2))).setArg 3 (flip f3 (s.arg 3))) = .next u ∧ u.res = t.res

/-- For finite components DISC_DLL lies in [−1, +1], except that four zero components give the canonical NaN (R213). -/
def Obligations.DllStaysBetweenMinusOneAndOne : Prop :=
  ∀ s : State, (∀ i : Fin 8, i.val < 4 → ∃ n m e, unpack32 (s.arg i) = .fin n m e) →
    ∃ t : State, exec .discDll s = .next t ∧
      ((∀ i : Fin 8, i.val < 4 → (s.arg i).toNat % 2 ^ 31 = 0) → t.res = 0x7FF8000000000000#64) ∧
      (¬ (∀ i : Fin 8, i.val < 4 → (s.arg i).toNat % 2 ^ 31 = 0) → magBits t.res ≤ 0x3FF0000000000000)

/-- Every NaN result of a discriminator is 0x7FF8000000000000 (R200). -/
def Obligations.DiscriminatorNansAreCanonical : Prop :=
  ∀ (i : Instr) (s t : State), isDisc i → exec i s = .next t → unpack64 t.res = .nan →
    t.res = 0x7FF8000000000000#64

/-- The degenerate inputs of the two phase discriminators, for every build (R211, R212). -/
def Obligations.PhaseDiscriminatorCorners : Prop :=
  ∀ s : State, ∃ p c : State, exec .discPll4q s = .next p ∧ exec .discCostas s = .next c ∧
    let i := (s.arg 0).toNat % 2 ^ 31
    let q := (s.arg 1).toNat % 2 ^ 31
    let ni := (s.arg 0).getLsbD 31
    let nq := (s.arg 1).getLsbD 31
    (q = 0 → i ≤ 0x7F800000 → p.res = withSign nq (if ni then 0x400921FB54442D18 else 0)) ∧
    (i = 0 → q ≠ 0 → q ≤ 0x7F800000 →
      p.res = withSign nq 0x3FF921FB54442D18 ∧ c.res = withSign (nq ^^ ni) 0x3FF921FB54442D18) ∧
    (i = 0 → q = 0 → c.res = 0x7FF8000000000000#64) ∧
    (i = 0x7F800000 → q < 0x7F800000 → c.res = withSign (nq ^^ ni) 0) ∧
    (i = 0x7F800000 → q = 0x7F800000 → c.res = 0x7FF8000000000000#64) ∧
    (0x7F800000 < i ∨ 0x7F800000 < q → p.res = 0x7FF8000000000000#64 ∧ c.res = 0x7FF8000000000000#64)

/-! ### Preamble correlator -/

/-- The score of R241, with the negativity test of R240 and the reference of R51 written out: PRE_CORR leaves the sign-extended score
in RES and changes nothing else; where the range check fails it raises ERR_ADDR and RES becomes 0. -/
def Obligations.PreCorrScoresTheWindow : Prop :=
  ∀ s : State, s.build.wf = true →
    let src := (s.arg 0).toNat
    let len := s.build.preNbits * s.build.preSpb
    (src % 8 = 0 ∧ src + 8 * len ≤ 2 ^ s.build.bufAddrBits →
      exec .preCorr s = .next { s with
        res := BitVec.ofInt 64 (((List.range len).map fun k =>
          let x := s.buf.memRead (src + 8 * k) 8
          let r : Int := if s.build.prePattern.getLsbD (s.build.preNbits - 1 - k / s.build.preSpb) then 1 else -1
          if 2 ^ 63 < x ∧ x ≤ 2 ^ 63 + 0x7FF0000000000000 then -r else r).sum) }) ∧
    (¬ (src % 8 = 0 ∧ src + 8 * len ≤ 2 ^ s.build.bufAddrBits) →
      exec .preCorr s = .next { s with res := 0#64, status := { s.status with errAddr := true } })

/-- The score lies in [−PRE_LEN, PRE_LEN] and has the parity of PRE_LEN (R241, R242). -/
def Obligations.ScoreIsBoundedWithParity : Prop :=
  ∀ s : State, s.build.wf = true → s.srcOk = true →
    ∃ t : State, exec .preCorr s = .next t ∧ -(s.build.preLen : Int) ≤ t.res.toInt ∧
      t.res.toInt ≤ (s.build.preLen : Int) ∧ (t.res.toInt - (s.build.preLen : Int)) % 2 = 0

/-- A window equal to the reference scores +PRE_LEN, its negation −PRE_LEN, and a window with nothing negative in it
the sum of the reference (R241). -/
def Obligations.MatchingWindowScoresFull : Prop :=
  ∀ s : State, s.build.wf = true → s.srcOk = true →
    ∃ t : State, exec .preCorr s = .next t ∧
      ((∀ k, k < s.build.preLen → s.buf.symbol s.src k =
        (if pref s.build k = 1 then 0x3FF0000000000000#64 else 0xBFF0000000000000#64)) →
          t.res.toInt = (s.build.preLen : Int)) ∧
      ((∀ k, k < s.build.preLen → s.buf.symbol s.src k =
        (if pref s.build k = 1 then 0xBFF0000000000000#64 else 0x3FF0000000000000#64)) →
          t.res.toInt = -(s.build.preLen : Int)) ∧
      ((∀ k, k < s.build.preLen →
        sign64 (s.buf.symbol s.src k) = false ∨ magBits (s.buf.symbol s.src k) = 0 ∨
          unpack64 (s.buf.symbol s.src k) = .nan) →
          t.res.toInt = ((List.range s.build.preLen).map (pref s.build)).sum)

/-! ### Registers and host accesses -/

/-- R35, R36, R43, R44, R45: the constant registers read as their constants, with no side effect, and a write to one is
dropped and sets HOST_ERR. -/
def Obligations.ConstantRegistersHoldTheirValues : Prop :=
  ∀ s : State,
    hostRead 0x000#21 s = (0x47434F52#32, s) ∧ hostRead 0x004#21 s = (0x00010000#32, s) ∧
    hostRead 0x048#21 s = (1023#32, s) ∧ hostRead 0x04C#21 s = (1023000#32, s) ∧
    hostRead 0x050#21 s = (0x8A782001#32, s) ∧
    ∀ (o : Offset) (w : Word), o = 0x000#21 ∨ o = 0x004#21 ∨ o = 0x048#21 ∨ o = 0x04C#21 ∨ o = 0x050#21 →
      hostWrite o w s = { s with status := { s.status with hostErr := true } }

/-- PARAM, PRE_PATTERN and PRE_CFG report a legal build field by field, and reserved bits read 0 (R37, R41, R42). That
PRE_PATTERN's bits above the string read 0 in a build whose parameter has some set is the model's reading of R41
(DEDUCED, log 20). -/
def Obligations.BuildRegistersReportTheBuild : Prop :=
  ∀ s : State, s.build.wf = true →
    (∃ v, hostRead 0x008#21 s = (v, s) ∧ v.toNat % 2 ^ 5 = s.build.bufAddrBits ∧ v.toNat / 2 ^ 5 % 2 ^ 3 = 0 ∧
      v.toNat / 2 ^ 8 % 2 ^ 8 = 51 ∧ v.toNat / 2 ^ 16 = 0) ∧
    (∃ v, hostRead 0x040#21 s = (v, s) ∧ (∀ k, k < s.build.preNbits → v.getLsbD k = s.build.prePattern.getLsbD k) ∧
      ∀ k, s.build.preNbits ≤ k → v.getLsbD k = false) ∧
    (∃ v, hostRead 0x044#21 s = (v, s) ∧ v.toNat % 2 ^ 6 = s.build.preNbits ∧ v.toNat / 2 ^ 6 % 2 ^ 2 = 0 ∧
      v.toNat / 2 ^ 8 % 2 ^ 8 = s.build.preSpb ∧ v.toNat / 2 ^ 16 = s.build.preNbits * s.build.preSpb) ∧
    ∀ (o : Offset) (w : Word), o = 0x008#21 ∨ o = 0x040#21 ∨ o = 0x044#21 →
      hostWrite o w s = { s with status := { s.status with hostErr := true } }

/-- The table of R50 (its values are the spec's, [from general knowledge, not in source]): DELAY_ROM[k] reads, zero-extended, at 0x100 + 4k; every entry lies in 1..1022; no write changes it. -/
def Obligations.DelayRomReadsTheTable : Prop :=
  ∀ s : State,
    ((List.range 51).map fun k => (hostRead (BitVec.ofNat 21 (0x100 + 4 * k)) s).1.toNat) =
      [5, 6, 7, 8, 17, 18, 139, 140, 141, 251, 252, 254, 255, 256, 257, 258, 469, 470, 471, 472, 473, 474, 509, 512,
        513, 514, 515, 516, 859, 860, 861, 862, 145, 175, 52, 21, 237, 235, 886, 657, 634, 762, 355, 1012, 176, 603,
        130, 359, 595, 68, 386] ∧
    ∀ k, k ≤ 50 → (hostRead (BitVec.ofNat 21 (0x100 + 4 * k)) s).2 = s ∧ 1 ≤ delayRom k ∧ delayRom k ≤ 1022 ∧
      ∀ w, hostWrite (BitVec.ofNat 21 (0x100 + 4 * k)) w s = { s with status := { s.status with hostErr := true } }

/-- R82: an access to an offset that is misaligned, unmapped or reserved, and a write to a read-only register, does
nothing but set HOST_ERR, and a bad read returns 0; no other access sets HOST_ERR by itself; and GCORE does not observe an
access outside its window. -/
def Obligations.BadAccessesOnlySetHostErr : Prop :=
  (∀ (s : State) (off : Offset) (w : Word),
    let bad : State := { s with status := { s.status with hostErr := true } }
    (¬ mapped s.build off.toNat → hostRead off s = (0#32, bad) ∧ hostWrite off w s = bad) ∧
    (mapped s.build off.toNat → readOnly off.toNat → hostWrite off w s = bad) ∧
    (mapped s.build off.toNat → (hostRead off s).2.status.hostErr = s.status.hostErr) ∧
    (mapped s.build off.toNat → ¬ readOnly off.toNat → s.status.hostErr = false →
      (hostWrite off w s).status.hostErr = false)) ∧
  (∀ (s : State) (addr w : Word),
    (addr.extractLsb' 21 11 ≠ platBase.extractLsb' 21 11 → busWrite addr w s = s ∧ busRead addr s = (none, s)) ∧
    (addr.extractLsb' 21 11 = platBase.extractLsb' 21 11 →
      busWrite addr w s = hostWrite (addr.extractLsb' 0 21) w s ∧
      busRead addr s = (some (hostRead (addr.extractLsb' 0 21) s).1, (hostRead (addr.extractLsb' 0 21) s).2)))

/-- R320: every row of the table of host accesses while BUSY = 1; and in every state, BUSY or not, CMD reads LAST_CMD,
RES_LO and RES_HI read the halves of RES, with no side effect (R33, R40), and a write to RES_LO or RES_HI is dropped and
sets HOST_ERR. -/
def Obligations.BusyBlocksTheHost : Prop :=
  (∀ (s : State) (w : Word),
    let bad : State := { s with status := { s.status with hostErr := true } }
    hostRead 0x014#21 s = (s.lastCmd, s) ∧ hostRead 0x018#21 s = (s.res.extractLsb' 0 32, s) ∧
    hostRead 0x01C#21 s = (s.res.extractLsb' 32 32, s) ∧ hostWrite 0x018#21 w s = bad ∧ hostWrite 0x01C#21 w s = bad) ∧
  ∀ (s : State) (off : Offset) (w : Word), s.status.busy = true →
    let overrun : State := { s with status := { s.status with ovr := true } }
    let bad : State := { s with status := { s.status with hostErr := true } }
    (off = 0x014#21 → hostWrite off w s = overrun ∧ hostRead off s = (s.lastCmd, s)) ∧
    (∀ i : Fin 8, off.toNat = 0x020 + 4 * i.val → hostWrite off w s = overrun ∧ hostRead off s = (s.arg i, s)) ∧
    (off.toNat % 4 = 0 → inBufWindow s.build off.toNat → hostWrite off w s = overrun ∧ hostRead off s = (0#32, overrun)) ∧
    (off = 0x018#21 → hostRead off s = (s.res.extractLsb' 0 32, s)) ∧
    (off = 0x01C#21 → hostRead off s = (s.res.extractLsb' 32 32, s)) ∧
    (off = 0x010#21 → hostRead off s = (s.status.toWord, s) ∧
      hostWrite off w s = { s with status := s.status.writeOneToClear w }) ∧
    (off = 0x00C#21 → hostRead off s = (s.ctrl.toWord, s) ∧
      (w.getLsbD 31 = false → hostWrite off w s =
        { s with ctrl := { ieDone := w.getLsbD 0, ieErr := w.getLsbD 1 } }) ∧
      (w.getLsbD 31 = true → hostWrite off w s = s.softReset)) ∧
    (mapped s.build off.toNat → (off.toNat < 0x00C ∨ (0x040 ≤ off.toNat ∧ off.toNat < 0x400)) →
      hostRead off s = ((hostRead off { s with status := { s.status with busy := false } }).1, s)) ∧
    (mapped s.build off.toNat → readOnly off.toNat → hostWrite off w s = bad) ∧
    (¬ mapped s.build off.toNat → hostWrite off w s = bad ∧ hostRead off s = (0#32, bad))

/-- R81: the BUF window. While BUSY = 0 a read returns the four bytes little-endian and a write stores them and leaves
every other byte and register alone; while BUSY = 1 a read returns 0, a write is dropped, and either sets OVR. -/
def Obligations.BufWindowReadsAndWritesBuf : Prop :=
  ∀ (s : State) (a : Nat) (w : Word), s.build.wf = true → a < 2 ^ s.build.bufAddrBits → a % 4 = 0 →
    let off := BitVec.ofNat 21 (0x100000 + a)
    let overrun : State := { s with status := { s.status with ovr := true } }
    (s.status.busy = false →
      hostRead off s = (s.buf.byte (a + 3) ++ s.buf.byte (a + 2) ++ s.buf.byte (a + 1) ++ s.buf.byte a, s) ∧
      ∃ m : Memory, hostWrite off w s = { s with buf := m } ∧ m.byte a = w.extractLsb' 0 8 ∧
        m.byte (a + 1) = w.extractLsb' 8 8 ∧ m.byte (a + 2) = w.extractLsb' 16 8 ∧
        m.byte (a + 3) = w.extractLsb' 24 8 ∧ ∀ x, x < a ∨ a + 4 ≤ x → m.byte x = s.buf.byte x) ∧
    (s.status.busy = true → hostRead off s = (0#32, overrun) ∧ hostWrite off w s = overrun)

/-- While a command is pending a host transaction changes neither ARG nor BUF nor RES nor LAST_CMD, and leaves the
command pending, unless it is a write to CTRL with SRST = 1 (R90, which the spec derives from R81 and R320; R33). -/
def Obligations.OperandsAreStableWhileBusy : Prop :=
  ∀ s : State, s.status.busy = true →
    (s.hostStep.args = s.args ∧ s.hostStep.buf = s.buf ∧ s.hostStep.res = s.res ∧ s.hostStep.lastCmd = s.lastCmd ∧
      s.hostStep.build = s.build ∧ s.hostStep.status.busy = true) ∨
    ∃ (w : Word) (rest : List HostOp), s.host = .write 0x00C#21 w :: rest ∧ w.getLsbD 31 = true

/-- A read of STATUS shows its eight flags in bits 7:0 and zeros above; a write clears exactly the W1C bits written as 1
and never sets one (R39). -/
def Obligations.StatusReadsAndClears : Prop :=
  ∀ (s : State) (w : Word),
    (∃ v, hostRead 0x010#21 s = (v, s) ∧ ∀ k, k < 32 → v.getLsbD k = (statusBits s.status).getD k false) ∧
    (∃ f : Status, hostWrite 0x010#21 w s = { s with status := f } ∧ f.busy = s.status.busy ∧
      ∀ k, 1 ≤ k → k ≤ 7 → (statusBits f).getD k false = ((statusBits s.status).getD k false && !w.getLsbD k))

/-- R38: CTRL reads its two enable bits and zeros above; a write with SRST = 0 sets them and changes nothing else,
whatever BUSY is; a write with SRST = 1 is the soft reset, after which CTRL reads 0. -/
def Obligations.CtrlHoldsTheEnableBits : Prop :=
  ∀ (s : State) (w : Word),
    (∃ v, hostRead 0x00C#21 s = (v, s) ∧ v.getLsbD 0 = s.ctrl.ieDone ∧ v.getLsbD 1 = s.ctrl.ieErr ∧
      ∀ k, 2 ≤ k → v.getLsbD k = false) ∧
    (w.getLsbD 31 = false → hostWrite 0x00C#21 w s =
      { s with ctrl := { ieDone := w.getLsbD 0, ieErr := w.getLsbD 1 } }) ∧
    (w.getLsbD 31 = true → hostWrite 0x00C#21 w s = s.softReset ∧
      (hostRead 0x00C#21 (hostWrite 0x00C#21 w s)).1 = 0#32)

/-- R32: ARG0 to ARG7 stand at 0x020 + 4i; a write while BUSY = 0 changes that register alone and reads back; while
BUSY = 1 it is dropped and sets OVR; commands never write ARG; all are 0 after reset. -/
def Obligations.ArgRegistersHoldWhatTheHostWrote : Prop :=
  (∀ (s : State) (i : Fin 8) (w : Word),
    let off := BitVec.ofNat 21 (0x020 + 4 * i.val)
    hostRead off s = (s.arg i, s) ∧
    (s.status.busy = false →
      hostWrite off w s = { s with args := s.args.set i.val w } ∧ (hostRead off (hostWrite off w s)).1 = w ∧
      ∀ j : Fin 8, j ≠ i → (hostWrite off w s).arg j = s.arg j) ∧
    (s.status.busy = true → hostWrite off w s = { s with status := { s.status with ovr := true } })) ∧
  (∀ (i : Instr) (s t : State), exec i s = .next t → t.args = s.args) ∧
  (∀ i : Fin 8, State.reset.arg i = 0#32)

/-- IRQ as a function of what the host reads from CTRL and STATUS; WARN_PRN does not drive it; it is 0 after reset
(R280). -/
def Obligations.IrqFollowsCtrlAndStatus : Prop :=
  (∀ s : State,
    let c := (hostRead 0x00C#21 s).1
    let f := (hostRead 0x010#21 s).1
    s.irq = ((c.getLsbD 0 && f.getLsbD 1) ||
      (c.getLsbD 1 && (f.getLsbD 2 || f.getLsbD 4 || f.getLsbD 5 || f.getLsbD 6 || f.getLsbD 7)))) ∧
  State.reset.irq = false ∧ (∀ s : State, s.softReset.irq = false ∧ s.powerOn.irq = false)

/-- One host access raises at most one of OVR and HOST_ERR, and neither of a command's conditions (R281). -/
def Obligations.OneAccessRaisesAtMostOneCondition : Prop :=
  ∀ (s : State) (off : Offset) (w : Word) (t : State), t = (hostRead off s).2 ∨ t = hostWrite off w s →
    s.status.ovr = false → s.status.hostErr = false →
      (t.status.ovr = false ∨ t.status.hostErr = false) ∧
      (¬ mapped s.build off.toNat → t.status.ovr = false) ∧
      (s.status.errPrn = false → t.status.errPrn = false) ∧ (s.status.warnPrn = false → t.status.warnPrn = false) ∧
      (s.status.errAddr = false → t.status.errAddr = false) ∧ (s.status.errCmd = false → t.status.errCmd = false)

/-- RES changes only in the step in which a command completes, or to 0 in a reset (R33). -/
def Obligations.ResChangesOnlyOnCompletion : Prop :=
  ∀ s t : State, step s = .next t → t.res ≠ s.res →
    (s.status.busy = true ∧ t.status.busy = false ∧ t.status.done = true) ∨
      (t.res = 0#64 ∧ t.status = Status.clear ∧ t.lastCmd = 0#32)

/-- Flags are sticky (R272): a condition's flag, once set, stays set in every step but one in which the host writes 1 to its STATUS bit, or
a reset. -/
def Obligations.FlagsAreSticky : Prop :=
  ∀ (s t : State) (c : Condition), step s = .next t → s.status.has c = true → t.status.has c = false →
    t.status = Status.clear ∨
      ∃ (w : Word) (rest : List HostOp), s.host = .write 0x010#21 w :: rest ∧
        ∃ k, (c, k) ∈ [(Condition.errPrn, 2), (.warnPrn, 3), (.errAddr, 4), (.errCmd, 5), (.ovr, 6), (.hostErr, 7)] ∧
          w.getLsbD k = true

/-- The soft reset of R311: a write to CTRL with SRST = 1 clears every register, aborts a pending command, whose write range takes fresh
free values, and leaves every other byte of BUF unchanged. That the free bytes are `Config.freeByte` of a fresh draw is the
model's form of "any value" (log 6). -/
def Obligations.SoftResetClearsAndAborts : Prop :=
  ∀ (s : State) (w : Word), w.getLsbD 31 = true →
    ∃ t : State, hostWrite 0x00C#21 w s = t ∧ t.ctrl = { ieDone := false, ieErr := false } ∧
      t.status = Status.clear ∧ t.lastCmd = 0#32 ∧ t.res = 0#64 ∧ (∀ i, t.arg i = 0#32) ∧ t.build = s.build ∧
      t.turns = s.turns ∧ t.host = s.host ∧ t.reads = s.reads ∧
      (s.status.busy = false → t.buf = s.buf) ∧
      (s.status.busy = true → ∀ a,
        (s.writeRange.1 ≤ a ∧ a < s.writeRange.1 + s.writeRange.2 → t.buf.byte a = Config.freeByte s.draws a) ∧
        (a < s.writeRange.1 ∨ s.writeRange.1 + s.writeRange.2 ≤ a → t.buf.byte a = s.buf.byte a))

open Classical in
/-- The write range of R312 is the destination range of a generation command whose checks pass, with its length, and
empty otherwise; and the command, when it completes, writes no byte outside it. -/
def Obligations.WriteRangeBoundsTheCommandsWrites : Prop :=
  ∀ s : State,
    (s.lastCmd = 0x01#32 ∨ s.lastCmd = 0x02#32 → s.writeRange =
      (if prnInTable s ∧ dstInside s 4 1023 then ((s.arg 2).toNat, 4092) else (0, 0))) ∧
    (s.lastCmd = 0x03#32 → s.writeRange =
      (if prnInTable s ∧ dstInside s 8 1023 then ((s.arg 2).toNat, 8184) else (0, 0))) ∧
    (s.lastCmd = 0x04#32 → s.writeRange =
      (if prnInTable s ∧ dstInside s 8 (samplesOf s) then ((s.arg 2).toNat, 8 * samplesOf s) else (0, 0))) ∧
    (s.lastCmd.toNat = 0 ∨ 4 < s.lastCmd.toNat → s.writeRange.2 = 0) ∧
    (∀ t : State, runPending s = .next t → ∀ a,
      a < s.writeRange.1 ∨ s.writeRange.1 + s.writeRange.2 ≤ a → t.buf.byte a = s.buf.byte a)

/-- The power-on reset of R310 clears every register and leaves no command pending, IRQ 0, and every byte of BUF a fresh
free value (`Config.freeByte` of a fresh draw, the model's form: log 5); `State.reset` is such a state of the reference
configuration. -/
def Obligations.PowerOnResetState : Prop :=
  (∀ (s : State) (rest : List Turn), s.turns = .powerOn :: rest →
    ∃ t : State, step s = .next t ∧ t.ctrl = { ieDone := false, ieErr := false } ∧ t.status = Status.clear ∧
      t.lastCmd = 0#32 ∧ t.res = 0#64 ∧ (∀ i, t.arg i = 0#32) ∧ t.irq = false ∧ t.build = s.build ∧
      ∀ a, t.buf.byte a = Config.freeByte s.draws a) ∧
  State.reset.ctrl = { ieDone := false, ieErr := false } ∧ State.reset.status = Status.clear ∧
  State.reset.lastCmd = 0#32 ∧ State.reset.res = 0#64 ∧ (∀ i, State.reset.arg i = 0#32) ∧ State.reset.irq = false ∧
  State.reset.build = Build.reference ∧ ∀ a, State.reset.buf.byte a = Config.freeByte 0 a

/-- A host that keeps the duties of R321 sees no OVR from its transaction. -/
def Obligations.DutifulHostSeesNoOverrun : Prop :=
  ∀ s : State, s.dutiful = true → s.status.ovr = false → s.hostStep.status.ovr = false

/-- The three primitive operations of a host program (R119): W is one write and R one read, whose value is bound to its
name, and nothing else changes; POLL is one read, and is repeated until it matches. That a host is a list of these
operations, that a name bound again keeps its newest value, and that POLL binds no name are the model's choices
(log 4). -/
def Obligations.HostOperationsAreSingleAccesses : Prop :=
  ∀ (s : State) (off : Offset) (rest : List HostOp),
    (∀ w, s.host = .write off w :: rest → s.hostStep = { hostWrite off w s with host := rest }) ∧
    (∀ name, s.host = .read off name :: rest →
      s.hostStep = { (hostRead off s).2 with host := rest, reads := s.hostStep.reads } ∧
      s.hostStep.reads.lookup name = some (hostRead off s).1 ∧
      (∀ other, other ≠ name → s.hostStep.reads.lookup other = s.reads.lookup other)) ∧
    (∀ mask value, s.host = .poll off mask value :: rest →
      ((hostRead off s).1 &&& mask = value → s.hostStep = { (hostRead off s).2 with host := rest }) ∧
      ((hostRead off s).1 &&& mask ≠ value → s.hostStep = (hostRead off s).2 ∧ s.hostStep.host = s.host ∧
        s.hostStep.reads = s.reads))

/-! ### The invariant -/

/-- The invariant holds right after reset. -/
def Obligations.InvariantAtReset : Prop := State.reset.Inv

/-- Every step keeps the invariant: the build stays legal, BUF stays canonical and inside its bounds, and DONE is 0
while a command is pending (R39, R47, R84, R261, R262). -/
def Obligations.EveryStepKeepsTheInvariant : Prop :=
  ∀ s t : State, s.Inv → step s = .next t → t.Inv
end

