-- ==== Sys2Proof/Laws/Arctan.lean ====
section
/-! SUPPORT. What the arctangents of a build can be (R201, R202): one lemma per function. -/

namespace Sys2Proof.Machine

variable (g : Angle)

/-- A settled rounding is that of both ends of one enclosure. -/
theorem Angle.settled_eq_some {round : Nat → Int → Nat} {precisions : List Nat} {v : Nat}
    (h : g.settled round precisions = some v) :
    ∃ P ∈ precisions, round (g.low P) (-(g.scale P : Int)) = v ∧ round (g.high P) (-(g.scale P : Int)) = v := by
  induction precisions with
  | nil => simp [Angle.settled] at h
  | cons P finer ih =>
    simp only [Angle.settled] at h
    split at h
    · rename_i heq
      have hv := Option.some.inj h
      exact ⟨P, List.mem_cons_self, hv, heq ▸ hv⟩
    · obtain ⟨P', hmem, hv⟩ := ih h
      exact ⟨P', List.mem_cons_of_mem _ hmem, hv⟩

/-- Where an enclosure settles the rounding, the correctly rounded bits are the settled ones. -/
theorem Angle.nearestBits_of_settled {v : Nat} (h : g.settled roundBits arctanPrecisions = some v) :
    g.nearestBits = v := by
  unfold Angle.nearestBits
  rw [h]
  exact Option.getD_some

/-- Where none does, they are those of the 2400-bit enclosure's lower end. -/
theorem Angle.nearestBits_of_unsettled (h : g.settled roundBits arctanPrecisions = none) :
    g.nearestBits = roundBits (g.low 2400) (-(g.scale 2400 : Int)) := by
  unfold Angle.nearestBits
  rw [h]
  exact Option.getD_none

/-- The magnitudes admitted: the two neighbours of the settled angle, and the one below them where a binade begins. -/
theorem Angle.admits_iff (bits : Nat) :
    g.admits bits = true ↔ ∃ f, g.settled floorBits arctanPrecisions = some f ∧
      withinUlp (g.settled roundBits arctanPrecisions) bits f = true := by
  unfold Angle.admits
  rw [Option.any_eq_true]

/-- `withinUlp` as a condition. -/
theorem withinUlp_iff (nearest : Option Nat) (bits f : Nat) :
    withinUlp nearest bits f = true ↔
      bits = f ∨ bits = f + 1 ∨ (bits + 1 = f ∧ isBinadeStart f = true ∧ nearest = some f) := by
  simp [withinUlp, and_assoc, or_assoc]

/-- The reference configuration takes the correctly rounded value. -/
theorem Angle.value_reference (proposal : B64) (most : Nat) :
    g.value true proposal most = withSign false (min most g.nearestBits) := rfl

/-- Everything a build's value can be: the correctly rounded one, or the proposal where it is admitted. -/
theorem Angle.value_cases (reference : Bool) (proposal : B64) (most : Nat) :
    g.value reference proposal most = withSign false (min most g.nearestBits) ∨
      (reference = false ∧ g.admits (magBits proposal) = true ∧ g.value reference proposal most =
        withSign (sign64 proposal && decide (magBits proposal = 0)) (min most (magBits proposal))) := by
  unfold Angle.value
  cases reference <;> cases h : g.admits (magBits proposal) <;> simp

@[simp] theorem neg64_neg64 (x : B64) : neg64 (neg64 x) = x := by simp [neg64]

@[simp] theorem negateIf_false (v : B64) : negateIf false v = v := rfl

@[simp] theorem negateIf_true (v : B64) : negateIf true v = neg64 v := rfl

end Sys2Proof.Machine
end

