-- ==== Sys2Proof/Laws/State.lean ====
section
/-! SUPPORT. One lemma per field per update of State, each true by rfl, so that no later proof unfolds a record update. -/

namespace Sys2Proof.Machine

variable (s : State)

/-! ### setArg -/

@[simp] theorem State.setArg_build (i : Fin 8) (v : Word) : (s.setArg i v).build = s.build := rfl
@[simp] theorem State.setArg_ctrl (i : Fin 8) (v : Word) : (s.setArg i v).ctrl = s.ctrl := rfl
@[simp] theorem State.setArg_status (i : Fin 8) (v : Word) : (s.setArg i v).status = s.status := rfl
@[simp] theorem State.setArg_lastCmd (i : Fin 8) (v : Word) : (s.setArg i v).lastCmd = s.lastCmd := rfl
@[simp] theorem State.setArg_res (i : Fin 8) (v : Word) : (s.setArg i v).res = s.res := rfl
@[simp] theorem State.setArg_args (i : Fin 8) (v : Word) : (s.setArg i v).args = s.args.set i v := rfl
@[simp] theorem State.setArg_buf (i : Fin 8) (v : Word) : (s.setArg i v).buf = s.buf := rfl
@[simp] theorem State.setArg_gen (i : Fin 8) (v : Word) : (s.setArg i v).gen = s.gen := rfl
@[simp] theorem State.setArg_draws (i : Fin 8) (v : Word) : (s.setArg i v).draws = s.draws := rfl
@[simp] theorem State.setArg_turns (i : Fin 8) (v : Word) : (s.setArg i v).turns = s.turns := rfl
@[simp] theorem State.setArg_host (i : Fin 8) (v : Word) : (s.setArg i v).host = s.host := rfl
@[simp] theorem State.setArg_reads (i : Fin 8) (v : Word) : (s.setArg i v).reads = s.reads := rfl

/-! ### setRes -/

@[simp] theorem State.setRes_build (v : BitVec 64) : (s.setRes v).build = s.build := rfl
@[simp] theorem State.setRes_ctrl (v : BitVec 64) : (s.setRes v).ctrl = s.ctrl := rfl
@[simp] theorem State.setRes_status (v : BitVec 64) : (s.setRes v).status = s.status := rfl
@[simp] theorem State.setRes_lastCmd (v : BitVec 64) : (s.setRes v).lastCmd = s.lastCmd := rfl
@[simp] theorem State.setRes_res (v : BitVec 64) : (s.setRes v).res = v := rfl
@[simp] theorem State.setRes_args (v : BitVec 64) : (s.setRes v).args = s.args := rfl
@[simp] theorem State.setRes_buf (v : BitVec 64) : (s.setRes v).buf = s.buf := rfl
@[simp] theorem State.setRes_gen (v : BitVec 64) : (s.setRes v).gen = s.gen := rfl
@[simp] theorem State.setRes_draws (v : BitVec 64) : (s.setRes v).draws = s.draws := rfl
@[simp] theorem State.setRes_turns (v : BitVec 64) : (s.setRes v).turns = s.turns := rfl
@[simp] theorem State.setRes_host (v : BitVec 64) : (s.setRes v).host = s.host := rfl
@[simp] theorem State.setRes_reads (v : BitVec 64) : (s.setRes v).reads = s.reads := rfl

/-! ### raise -/

@[simp] theorem State.raise_build (c : Condition) : (s.raise c).build = s.build := rfl
@[simp] theorem State.raise_ctrl (c : Condition) : (s.raise c).ctrl = s.ctrl := rfl
@[simp] theorem State.raise_status (c : Condition) : (s.raise c).status = s.status.with c := rfl
@[simp] theorem State.raise_lastCmd (c : Condition) : (s.raise c).lastCmd = s.lastCmd := rfl
@[simp] theorem State.raise_res (c : Condition) : (s.raise c).res = s.res := rfl
@[simp] theorem State.raise_args (c : Condition) : (s.raise c).args = s.args := rfl
@[simp] theorem State.raise_buf (c : Condition) : (s.raise c).buf = s.buf := rfl
@[simp] theorem State.raise_gen (c : Condition) : (s.raise c).gen = s.gen := rfl
@[simp] theorem State.raise_draws (c : Condition) : (s.raise c).draws = s.draws := rfl
@[simp] theorem State.raise_turns (c : Condition) : (s.raise c).turns = s.turns := rfl
@[simp] theorem State.raise_host (c : Condition) : (s.raise c).host = s.host := rfl
@[simp] theorem State.raise_reads (c : Condition) : (s.raise c).reads = s.reads := rfl

/-! ### raiseIf -/

@[simp] theorem State.raiseIf_build (b : Bool) (c : Condition) : (s.raiseIf b c).build = s.build := rfl
@[simp] theorem State.raiseIf_ctrl (b : Bool) (c : Condition) : (s.raiseIf b c).ctrl = s.ctrl := rfl
@[simp] theorem State.raiseIf_status (b : Bool) (c : Condition) : (s.raiseIf b c).status = s.status.withIf b c := rfl
@[simp] theorem State.raiseIf_lastCmd (b : Bool) (c : Condition) : (s.raiseIf b c).lastCmd = s.lastCmd := rfl
@[simp] theorem State.raiseIf_res (b : Bool) (c : Condition) : (s.raiseIf b c).res = s.res := rfl
@[simp] theorem State.raiseIf_args (b : Bool) (c : Condition) : (s.raiseIf b c).args = s.args := rfl
@[simp] theorem State.raiseIf_buf (b : Bool) (c : Condition) : (s.raiseIf b c).buf = s.buf := rfl
@[simp] theorem State.raiseIf_gen (b : Bool) (c : Condition) : (s.raiseIf b c).gen = s.gen := rfl
@[simp] theorem State.raiseIf_draws (b : Bool) (c : Condition) : (s.raiseIf b c).draws = s.draws := rfl
@[simp] theorem State.raiseIf_turns (b : Bool) (c : Condition) : (s.raiseIf b c).turns = s.turns := rfl
@[simp] theorem State.raiseIf_host (b : Bool) (c : Condition) : (s.raiseIf b c).host = s.host := rfl
@[simp] theorem State.raiseIf_reads (b : Bool) (c : Condition) : (s.raiseIf b c).reads = s.reads := rfl

/-! ### accept -/

@[simp] theorem State.accept_build (w : Word) : (s.accept w).build = s.build := rfl
@[simp] theorem State.accept_ctrl (w : Word) : (s.accept w).ctrl = s.ctrl := rfl
@[simp] theorem State.accept_status (w : Word) : (s.accept w).status = s.status.accepted := rfl
@[simp] theorem State.accept_lastCmd (w : Word) : (s.accept w).lastCmd = w := rfl
@[simp] theorem State.accept_res (w : Word) : (s.accept w).res = s.res := rfl
@[simp] theorem State.accept_args (w : Word) : (s.accept w).args = s.args := rfl
@[simp] theorem State.accept_buf (w : Word) : (s.accept w).buf = s.buf := rfl
@[simp] theorem State.accept_gen (w : Word) : (s.accept w).gen = s.gen := rfl
@[simp] theorem State.accept_draws (w : Word) : (s.accept w).draws = s.draws := rfl
@[simp] theorem State.accept_turns (w : Word) : (s.accept w).turns = s.turns := rfl
@[simp] theorem State.accept_host (w : Word) : (s.accept w).host = s.host := rfl
@[simp] theorem State.accept_reads (w : Word) : (s.accept w).reads = s.reads := rfl

/-! ### complete -/

@[simp] theorem State.complete_build : (s.complete).build = s.build := rfl
@[simp] theorem State.complete_ctrl : (s.complete).ctrl = s.ctrl := rfl
@[simp] theorem State.complete_status : (s.complete).status = s.status.completed := rfl
@[simp] theorem State.complete_lastCmd : (s.complete).lastCmd = s.lastCmd := rfl
@[simp] theorem State.complete_res : (s.complete).res = s.res := rfl
@[simp] theorem State.complete_args : (s.complete).args = s.args := rfl
@[simp] theorem State.complete_buf : (s.complete).buf = s.buf := rfl
@[simp] theorem State.complete_gen : (s.complete).gen = s.gen := rfl
@[simp] theorem State.complete_draws : (s.complete).draws = s.draws := rfl
@[simp] theorem State.complete_turns : (s.complete).turns = s.turns := rfl
@[simp] theorem State.complete_host : (s.complete).host = s.host := rfl
@[simp] theorem State.complete_reads : (s.complete).reads = s.reads := rfl

/-! ### forgetGen -/

@[simp] theorem State.forgetGen_build : (s.forgetGen).build = s.build := rfl
@[simp] theorem State.forgetGen_ctrl : (s.forgetGen).ctrl = s.ctrl := rfl
@[simp] theorem State.forgetGen_status : (s.forgetGen).status = s.status := rfl
@[simp] theorem State.forgetGen_lastCmd : (s.forgetGen).lastCmd = s.lastCmd := rfl
@[simp] theorem State.forgetGen_res : (s.forgetGen).res = s.res := rfl
@[simp] theorem State.forgetGen_args : (s.forgetGen).args = s.args := rfl
@[simp] theorem State.forgetGen_buf : (s.forgetGen).buf = s.buf := rfl
@[simp] theorem State.forgetGen_gen : (s.forgetGen).gen = freeGenWork s.draws := rfl
@[simp] theorem State.forgetGen_draws : (s.forgetGen).draws = s.draws + 1 := rfl
@[simp] theorem State.forgetGen_turns : (s.forgetGen).turns = s.turns := rfl
@[simp] theorem State.forgetGen_host : (s.forgetGen).host = s.host := rfl
@[simp] theorem State.forgetGen_reads : (s.forgetGen).reads = s.reads := rfl

/-! ### genFlags -/

@[simp] theorem State.genFlags_build (size n : Nat) : (s.genFlags size n).build = s.build := rfl
@[simp] theorem State.genFlags_ctrl (size n : Nat) : (s.genFlags size n).ctrl = s.ctrl := rfl
@[simp] theorem State.genFlags_status (size n : Nat) :
    (s.genFlags size n).status =
      ((s.status.withIf (!s.prnOk) .errPrn).withIf (s.prnOk && !prnListed s.prn) .warnPrn).withIf
      (!s.dstOk size n) .errAddr := rfl
@[simp] theorem State.genFlags_lastCmd (size n : Nat) : (s.genFlags size n).lastCmd = s.lastCmd := rfl
@[simp] theorem State.genFlags_res (size n : Nat) : (s.genFlags size n).res = s.res := rfl
@[simp] theorem State.genFlags_args (size n : Nat) : (s.genFlags size n).args = s.args := rfl
@[simp] theorem State.genFlags_buf (size n : Nat) : (s.genFlags size n).buf = s.buf := rfl
@[simp] theorem State.genFlags_gen (size n : Nat) : (s.genFlags size n).gen = s.gen := rfl
@[simp] theorem State.genFlags_draws (size n : Nat) : (s.genFlags size n).draws = s.draws := rfl
@[simp] theorem State.genFlags_turns (size n : Nat) : (s.genFlags size n).turns = s.turns := rfl
@[simp] theorem State.genFlags_host (size n : Nat) : (s.genFlags size n).host = s.host := rfl
@[simp] theorem State.genFlags_reads (size n : Nat) : (s.genFlags size n).reads = s.reads := rfl

/-! ### putElements -/

@[simp] theorem State.putElements_build (ok : Bool) (bs : List Byte) (n : Nat) :
    (s.putElements ok bs n).build =
      s.build := rfl
@[simp] theorem State.putElements_ctrl (ok : Bool) (bs : List Byte) (n : Nat) :
    (s.putElements ok bs n).ctrl =
      s.ctrl := rfl
@[simp] theorem State.putElements_status (ok : Bool) (bs : List Byte) (n : Nat) :
    (s.putElements ok bs n).status =
      s.status := rfl
@[simp] theorem State.putElements_lastCmd (ok : Bool) (bs : List Byte) (n : Nat) :
    (s.putElements ok bs n).lastCmd =
      s.lastCmd := rfl
@[simp] theorem State.putElements_res (ok : Bool) (bs : List Byte) (n : Nat) :
    (s.putElements ok bs n).res =
      if ok then BitVec.ofNat 64 n else 0#64 := rfl
@[simp] theorem State.putElements_args (ok : Bool) (bs : List Byte) (n : Nat) :
    (s.putElements ok bs n).args =
      s.args := rfl
@[simp] theorem State.putElements_buf (ok : Bool) (bs : List Byte) (n : Nat) :
    (s.putElements ok bs n).buf =
      if ok then s.buf.writeBytes s.dst bs else s.buf := rfl
@[simp] theorem State.putElements_gen (ok : Bool) (bs : List Byte) (n : Nat) :
    (s.putElements ok bs n).gen =
      s.gen := rfl
@[simp] theorem State.putElements_draws (ok : Bool) (bs : List Byte) (n : Nat) :
    (s.putElements ok bs n).draws =
      s.draws := rfl
@[simp] theorem State.putElements_turns (ok : Bool) (bs : List Byte) (n : Nat) :
    (s.putElements ok bs n).turns =
      s.turns := rfl
@[simp] theorem State.putElements_host (ok : Bool) (bs : List Byte) (n : Nat) :
    (s.putElements ok bs n).host =
      s.host := rfl
@[simp] theorem State.putElements_reads (ok : Bool) (bs : List Byte) (n : Nat) :
    (s.putElements ok bs n).reads =
      s.reads := rfl

/-! ### clearRegisters -/

@[simp] theorem State.clearRegisters_build : (s.clearRegisters).build = s.build := rfl
@[simp] theorem State.clearRegisters_ctrl : (s.clearRegisters).ctrl = { ieDone := false, ieErr := false } := rfl
@[simp] theorem State.clearRegisters_status : (s.clearRegisters).status = Status.clear := rfl
@[simp] theorem State.clearRegisters_lastCmd : (s.clearRegisters).lastCmd = 0#32 := rfl
@[simp] theorem State.clearRegisters_res : (s.clearRegisters).res = 0#64 := rfl
@[simp] theorem State.clearRegisters_args : (s.clearRegisters).args = Vector.replicate 8 0#32 := rfl
@[simp] theorem State.clearRegisters_buf : (s.clearRegisters).buf = s.buf := rfl
@[simp] theorem State.clearRegisters_gen : (s.clearRegisters).gen = freeGenWork s.draws := rfl
@[simp] theorem State.clearRegisters_draws : (s.clearRegisters).draws = s.draws + 1 := rfl
@[simp] theorem State.clearRegisters_turns : (s.clearRegisters).turns = s.turns := rfl
@[simp] theorem State.clearRegisters_host : (s.clearRegisters).host = s.host := rfl
@[simp] theorem State.clearRegisters_reads : (s.clearRegisters).reads = s.reads := rfl

/-! ### softReset -/

@[simp] theorem State.softReset_build : (s.softReset).build = s.build := rfl
@[simp] theorem State.softReset_ctrl : (s.softReset).ctrl = { ieDone := false, ieErr := false } := rfl
@[simp] theorem State.softReset_status : (s.softReset).status = Status.clear := rfl
@[simp] theorem State.softReset_lastCmd : (s.softReset).lastCmd = 0#32 := rfl
@[simp] theorem State.softReset_res : (s.softReset).res = 0#64 := rfl
@[simp] theorem State.softReset_args : (s.softReset).args = Vector.replicate 8 0#32 := rfl
@[simp] theorem State.softReset_buf : (s.softReset).buf = if s.status.busy then s.abortedBuf else s.buf := rfl
@[simp] theorem State.softReset_gen : (s.softReset).gen = freeGenWork s.draws := rfl
@[simp] theorem State.softReset_draws : (s.softReset).draws = s.draws + 1 := rfl
@[simp] theorem State.softReset_turns : (s.softReset).turns = s.turns := rfl
@[simp] theorem State.softReset_host : (s.softReset).host = s.host := rfl
@[simp] theorem State.softReset_reads : (s.softReset).reads = s.reads := rfl

/-! ### powerOn -/

@[simp] theorem State.powerOn_build : (s.powerOn).build = s.build := rfl
@[simp] theorem State.powerOn_ctrl : (s.powerOn).ctrl = { ieDone := false, ieErr := false } := rfl
@[simp] theorem State.powerOn_status : (s.powerOn).status = Status.clear := rfl
@[simp] theorem State.powerOn_lastCmd : (s.powerOn).lastCmd = 0#32 := rfl
@[simp] theorem State.powerOn_res : (s.powerOn).res = 0#64 := rfl
@[simp] theorem State.powerOn_args : (s.powerOn).args = Vector.replicate 8 0#32 := rfl
@[simp] theorem State.powerOn_buf : (s.powerOn).buf = { fill := s.draws, cells := [] } := rfl
@[simp] theorem State.powerOn_gen : (s.powerOn).gen = freeGenWork s.draws := rfl
@[simp] theorem State.powerOn_draws : (s.powerOn).draws = s.draws + 1 := rfl
@[simp] theorem State.powerOn_turns : (s.powerOn).turns = s.turns := rfl
@[simp] theorem State.powerOn_host : (s.powerOn).host = s.host := rfl
@[simp] theorem State.powerOn_reads : (s.powerOn).reads = s.reads := rfl

/-! ### placeCommand -/

@[simp] theorem State.placeCommand_build (w : Word) : (s.placeCommand w).build = s.build := rfl
@[simp] theorem State.placeCommand_ctrl (w : Word) : (s.placeCommand w).ctrl = s.ctrl := rfl
@[simp] theorem State.placeCommand_status (w : Word) : (s.placeCommand w).status = s.status.accepted := rfl
@[simp] theorem State.placeCommand_lastCmd (w : Word) : (s.placeCommand w).lastCmd = w := rfl
@[simp] theorem State.placeCommand_res (w : Word) : (s.placeCommand w).res = s.res := rfl
@[simp] theorem State.placeCommand_args (w : Word) : (s.placeCommand w).args = s.args := rfl
@[simp] theorem State.placeCommand_buf (w : Word) : (s.placeCommand w).buf = s.buf := rfl
@[simp] theorem State.placeCommand_gen (w : Word) : (s.placeCommand w).gen = s.gen := rfl
@[simp] theorem State.placeCommand_draws (w : Word) : (s.placeCommand w).draws = s.draws := rfl
@[simp] theorem State.placeCommand_turns (w : Word) : (s.placeCommand w).turns = .engine :: s.turns := rfl
@[simp] theorem State.placeCommand_host (w : Word) : (s.placeCommand w).host = s.host := rfl
@[simp] theorem State.placeCommand_reads (w : Word) : (s.placeCommand w).reads = s.reads := rfl

/-! ### Flags -/

variable (f : Status) (c : Condition)

/-- Setting a condition's flag sets no other flag. -/
theorem Status.with_has (d : Condition) : (f.with c).has d = (f.has d || decide (c = d)) := by
  cases c <;> cases d <;> simp [Status.with, Status.has]

/-- `withIf` sets the condition's flag when its guard holds, and nothing else. -/
theorem Status.withIf_has (b : Bool) (d : Condition) :
    (f.withIf b c).has d = (f.has d || (b && decide (c = d))) := by
  cases b <;> simp [Status.withIf, Status.with_has]

@[simp] theorem Status.with_busy : (f.with c).busy = f.busy := by cases c <;> rfl
@[simp] theorem Status.with_done : (f.with c).done = f.done := by cases c <;> rfl
@[simp] theorem Status.withIf_busy (b : Bool) : (f.withIf b c).busy = f.busy := by cases b <;> simp [Status.withIf]
@[simp] theorem Status.withIf_done (b : Bool) : (f.withIf b c).done = f.done := by cases b <;> simp [Status.withIf]
@[simp] theorem Status.accepted_busy : f.accepted.busy = true := rfl
@[simp] theorem Status.accepted_done : f.accepted.done = false := rfl
@[simp] theorem Status.accepted_has (d : Condition) : f.accepted.has d = f.has d := by cases d <;> rfl
@[simp] theorem Status.completed_busy : f.completed.busy = false := rfl
@[simp] theorem Status.completed_done : f.completed.done = true := rfl
@[simp] theorem Status.completed_has (d : Condition) : f.completed.has d = f.has d := by cases d <;> rfl
@[simp] theorem Status.clear_busy : Status.clear.busy = false := rfl
@[simp] theorem Status.clear_done : Status.clear.done = false := rfl
@[simp] theorem Status.clear_has (d : Condition) : Status.clear.has d = false := by cases d <;> rfl
@[simp] theorem Status.writeOneToClear_busy (w : Word) : (f.writeOneToClear w).busy = f.busy := rfl

/-- A write to STATUS never sets a flag (R39). -/
theorem Status.writeOneToClear_has_le (w : Word) (d : Condition) (h : (f.writeOneToClear w).has d = true) :
    f.has d = true := by
  cases d <;> simp_all [Status.writeOneToClear, Status.has]

/-- A write to STATUS never sets DONE (R39). -/
theorem Status.writeOneToClear_done_le (w : Word) (h : (f.writeOneToClear w).done = true) : f.done = true := by
  simp_all [Status.writeOneToClear]

/-- A pending command and DONE exclude each other; no write to STATUS breaks that. -/
theorem Status.writeOneToClear_busy_not_done (w : Word) (h : f.busy = true → f.done = false) :
    (f.writeOneToClear w).busy = true → (f.writeOneToClear w).done = false := by
  intro hb; simp [Status.writeOneToClear, h hb]

/-- The two checks set their own flags and no other (R149, R281). -/
theorem State.genFlags_has (size n : Nat) (d : Condition) :
    (s.genFlags size n).status.has d =
      (s.status.has d || (!s.prnOk && decide (Condition.errPrn = d)) ||
        ((s.prnOk && !prnListed s.prn) && decide (Condition.warnPrn = d)) ||
        (!s.dstOk size n && decide (Condition.errAddr = d))) := by
  simp only [State.genFlags_status, Status.withIf_has]

end Sys2Proof.Machine
end

