-- ==== Sys2Proof/Laws/Memory.lean ====
section
/-! SUPPORT. BUF: what a write changes and what it leaves, the canonical form, and the little-endian element. -/

namespace Sys2Proof.Machine

/-! ### Looking a byte up -/

theorem lookupCell_append (xs ys : List Host.Cell) (a : Nat) :
    lookupCell (xs ++ ys) a = (lookupCell xs a).or (lookupCell ys a) := by
  induction xs with
  | nil => simp [lookupCell]
  | cons c rest ih => by_cases h : c.1 = a <;> simp [lookupCell, h, ih]

/-- Keeping the cells whose addresses meet a test keeps exactly those bytes. -/
theorem lookupCell_filter (p : Nat → Bool) (xs : List Host.Cell) (a : Nat) :
    lookupCell (xs.filter fun c => p c.1) a = if p a then lookupCell xs a else none := by
  induction xs with
  | nil => simp [lookupCell]
  | cons c rest ih =>
    by_cases h : c.1 = a
    · subst h; by_cases hp : p c.1 <;> simp [List.filter, lookupCell, hp, ih]
    · by_cases hp : p c.1 <;> simp [List.filter, lookupCell, h, hp, ih]

theorem placeBytes_cons (a : Nat) (b : Byte) (bs : List Byte) :
    placeBytes a (b :: bs) = (a, b) :: placeBytes (a + 1) bs := rfl

theorem placeBytes_append (a : Nat) (xs ys : List Byte) :
    placeBytes a (xs ++ ys) = placeBytes a xs ++ placeBytes (a + xs.length) ys := by
  induction xs generalizing a with
  | nil => rfl
  | cons b bs ih => simp [placeBytes_cons, ih, Nat.add_assoc, Nat.add_comm 1]

theorem lookupCell_placeBytes (a : Nat) (bs : List Byte) (x : Nat) :
    lookupCell (placeBytes a bs) x = if a ≤ x then bs[x - a]? else none := by
  induction bs generalizing a with
  | nil => simp [placeBytes, lookupCell]
  | cons b bs ih =>
    rw [placeBytes_cons]
    by_cases h : a = x
    · subst h; simp [lookupCell]
    · by_cases h2 : a ≤ x
      · have h3 : a + 1 ≤ x := by omega
        have h4 : x - a = (x - (a + 1)) + 1 := by omega
        simp [lookupCell, h, ih, h2, h3, h4]
      · have h3 : ¬ a + 1 ≤ x := by omega
        simp [lookupCell, h, ih, h2, h3]

theorem mem_placeBytes {a : Nat} {bs : List Byte} {c : Host.Cell} (h : c ∈ placeBytes a bs) :
    a ≤ c.1 ∧ c.1 < a + bs.length := by
  induction bs generalizing a with
  | nil => simp [placeBytes] at h
  | cons b bs ih =>
    rw [placeBytes_cons, List.mem_cons] at h
    rcases h with rfl | h
    · simp
    · have := ih h; simp only [List.length_cons]; omega

theorem placeBytes_rising (a : Nat) (bs : List Byte) : (placeBytes a bs).Pairwise fun c d => c.1 < d.1 := by
  induction bs generalizing a with
  | nil => simp [placeBytes]
  | cons b bs ih =>
    rw [placeBytes_cons, List.pairwise_cons]
    exact ⟨fun c hc => by have := mem_placeBytes hc; simp only; omega, ih (a + 1)⟩

/-! ### Writing bytes -/

variable (m : Memory) (a : Nat) (bs : List Byte)

theorem Memory.writeBytes_fill : (m.writeBytes a bs).fill = m.fill := rfl

/-- What a write does to every byte of BUF: the stored bytes in the stored range, nothing elsewhere. -/
theorem Memory.byte_writeBytes (x : Nat) :
    (m.writeBytes a bs).byte x =
      if a ≤ x ∧ x < a + bs.length then bs.getD (x - a) 0#8 else m.byte x := by
  have key : lookupCell (m.writeBytes a bs).cells x =
      if a ≤ x ∧ x < a + bs.length then some (bs.getD (x - a) 0#8) else lookupCell m.cells x := by
    simp only [Memory.writeBytes, lookupCell_append]
    rw [lookupCell_filter (fun k => decide (k < a)), lookupCell_filter (fun k => decide (a + bs.length ≤ k)),
      lookupCell_placeBytes]
    by_cases h1 : x < a
    · have h2 : ¬ a ≤ x := by omega
      have h3 : ¬ a + bs.length ≤ x := by omega
      simp [h1, h2, h3]
    · have h2 : a ≤ x := by omega
      by_cases h3 : x < a + bs.length
      · have h4 : x - a < bs.length := by omega
        simp [h1, h2, h3, List.getD_eq_getElem?_getD, List.getElem?_eq_getElem h4]
      · have h4 : bs.length ≤ x - a := by omega
        have h5 : a + bs.length ≤ x := by omega
        simp [h1, h3, h5, List.getElem?_eq_none h4]
  simp only [Memory.byte, key]
  by_cases h : a ≤ x ∧ x < a + bs.length
  · simp [h]
  · simp only [h, if_false]; rfl

theorem Memory.byte_writeBytes_outside (x : Nat) (h : x < a ∨ a + bs.length ≤ x) :
    (m.writeBytes a bs).byte x = m.byte x := by
  rw [Memory.byte_writeBytes, if_neg (by omega)]

theorem Memory.byte_writeBytes_inside (i : Nat) (h : i < bs.length) :
    (m.writeBytes a bs).byte (a + i) = bs[i] := by
  rw [Memory.byte_writeBytes, if_pos (by omega)]
  simp [List.getD_eq_getElem?_getD, List.getElem?_eq_getElem h]

/-- Every write keeps the canonical form. -/
theorem Memory.writeBytes_wf (h : m.wf) : (m.writeBytes a bs).wf := by
  simp only [Memory.wf, Memory.writeBytes, List.append_assoc, List.pairwise_append]
  refine ⟨h.filter _, ⟨placeBytes_rising a bs, h.filter _, ?_⟩, ?_⟩
  · intro c hc d hd
    have := mem_placeBytes hc
    have hd' := (List.mem_filter.mp hd).2
    simp only [decide_eq_true_eq] at hd'
    omega
  · intro c hc d hd
    have hc' := (List.mem_filter.mp hc).2
    simp only [decide_eq_true_eq] at hc'
    rcases List.mem_append.mp hd with hd | hd
    · have := mem_placeBytes hd; omega
    · have hd' := (List.mem_filter.mp hd).2
      simp only [decide_eq_true_eq] at hd'
      omega

/-- A write inside a bound lists nothing outside it. -/
theorem Memory.writeBytes_inside (bound : Nat) (h : ∀ c ∈ m.cells, c.1 < bound)
    (hb : a + bs.length ≤ bound ∨ bs = []) : ∀ c ∈ (m.writeBytes a bs).cells, c.1 < bound := by
  intro c hc
  simp only [Memory.writeBytes, List.append_assoc, List.mem_append, List.mem_filter] at hc
  rcases hc with hc | hc | hc
  · exact h c hc.1
  · have := mem_placeBytes hc
    rcases hb with hb | rfl
    · omega
    · simp at this; omega
  · exact h c hc.1

/-- A write of two runs of bytes is one write after the other: storing a waveform at once is the loop of single
element writes of R149 and R183. -/
theorem Memory.writeBytes_append (cs : List Byte) :
    m.writeBytes a (bs ++ cs) = (m.writeBytes a bs).writeBytes (a + bs.length) cs := by
  have hplace : (placeBytes a bs).filter (fun c => decide (c.1 < a + bs.length)) = placeBytes a bs := by
    rw [List.filter_eq_self]; intro c hc; have := mem_placeBytes hc; simp only [decide_eq_true_eq]; omega
  have hplace' : (placeBytes a bs).filter (fun c => decide (a + bs.length + cs.length ≤ c.1)) = [] := by
    rw [List.filter_eq_nil_iff]; intro c hc; have := mem_placeBytes hc; simp only [decide_eq_true_eq]; omega
  have h1 : ∀ xs : List Host.Cell, (xs.filter (fun c => decide (c.1 < a))).filter
      (fun c => decide (c.1 < a + bs.length)) = xs.filter (fun c => decide (c.1 < a)) := by
    intro xs; rw [List.filter_filter]; congr 1; funext c
    by_cases h : c.1 < a <;> simp [h]; omega
  have h2 : ∀ xs : List Host.Cell, (xs.filter (fun c => decide (c.1 < a))).filter
      (fun c => decide (a + bs.length + cs.length ≤ c.1)) = [] := by
    intro xs; rw [List.filter_filter, List.filter_eq_nil_iff]; intro c _; simp; omega
  have h3 : ∀ xs : List Host.Cell, (xs.filter (fun c => decide (a + bs.length ≤ c.1))).filter
      (fun c => decide (c.1 < a + bs.length)) = [] := by
    intro xs; rw [List.filter_filter, List.filter_eq_nil_iff]; intro c _; simp
  have h4 : ∀ xs : List Host.Cell, (xs.filter (fun c => decide (a + bs.length ≤ c.1))).filter
      (fun c => decide (a + bs.length + cs.length ≤ c.1)) =
        xs.filter (fun c => decide (a + bs.length + cs.length ≤ c.1)) := by
    intro xs; rw [List.filter_filter]; congr 1; funext c
    by_cases h : a + bs.length + cs.length ≤ c.1 <;> simp [h]; omega
  simp only [Memory.writeBytes, List.filter_append, h1, h2, h3, h4, hplace, hplace', placeBytes_append,
    List.length_append, List.append_nil, List.nil_append, List.append_assoc, ← Nat.add_assoc]

/-! ### Little-endian elements (R83, R86) -/

@[simp] theorem leBytes_length {w : Nat} (n : Nat) (v : BitVec w) : (leBytes n v).length = n := by simp [leBytes]

theorem leBytes_getElem {w : Nat} (n : Nat) (v : BitVec w) (j : Nat) (h : j < (leBytes n v).length) :
    (leBytes n v)[j] = v.extractLsb' (8 * j) 8 := by simp [leBytes]

/-- MemRead depends only on the bytes it reads. -/
theorem Memory.memRead_congr (m m' : Memory) (a n : Nat) (h : ∀ j, j < n → m.byte (a + j) = m'.byte (a + j)) :
    m.memRead a n = m'.memRead a n := by
  unfold Memory.memRead
  congr 1
  apply List.map_congr_left
  intro j hj
  rw [h j (List.mem_range.mp hj)]

/-- The bytes of a number, each in its place, add up to the number. -/
theorem sum_of_bytes (x n : Nat) :
    ((List.range n).map fun j => x / 2 ^ (8 * j) % 2 ^ 8 * 2 ^ (8 * j)).sum = x % 2 ^ (8 * n) := by
  induction n with
  | zero => simp [Nat.mod_one]
  | succ n ih =>
    rw [List.range_succ, List.map_append, List.sum_append, ih, Nat.mul_succ, Nat.pow_add, Nat.mod_mul]
    simp [Nat.mul_comm]

/-- Bytes that hold a value little-endian read as that value. -/
theorem Memory.memRead_of_bytes {w : Nat} (m : Memory) (a n : Nat) (v : BitVec w) (hw : w ≤ 8 * n)
    (h : ∀ j, j < n → m.byte (a + j) = v.extractLsb' (8 * j) 8) : m.memRead a n = v.toNat := by
  have hsum : m.memRead a n = ((List.range n).map fun j => v.toNat / 2 ^ (8 * j) % 2 ^ 8 * 2 ^ (8 * j)).sum := by
    unfold Memory.memRead
    congr 1
    apply List.map_congr_left
    intro j hj
    rw [h j (List.mem_range.mp hj), BitVec.extractLsb'_toNat, Nat.shiftRight_eq_div_pow]
  rw [hsum, sum_of_bytes, Nat.mod_eq_of_lt (Nat.lt_of_lt_of_le v.isLt (Nat.pow_le_pow_right (by decide) hw))]

/-- What MemWrite stores, MemRead reads (R86). -/
theorem Memory.memRead_memWrite {w : Nat} (m : Memory) (a n : Nat) (v : BitVec w) (hw : w ≤ 8 * n) :
    (m.memWrite a n v).memRead a n = v.toNat := by
  apply Memory.memRead_of_bytes _ _ _ _ hw
  intro j hj
  rw [Memory.memWrite, Memory.byte_writeBytes_inside _ _ _ _ (by simpa using hj), leBytes_getElem]

/-- MemWrite leaves every byte outside its range alone (R86). -/
theorem Memory.byte_memWrite_outside {w : Nat} (m : Memory) (a n : Nat) (v : BitVec w) (x : Nat)
    (h : x < a ∨ a + n ≤ x) : (m.memWrite a n v).byte x = m.byte x :=
  Memory.byte_writeBytes_outside _ _ _ _ (by simpa using h)

/-- A range check that passed keeps the range inside BUF (R84). -/
theorem rangeOk_inside (b : Build) (a size n : Nat) (h : rangeOk b a size n = true) :
    n = 0 ∨ (a % size = 0 ∧ a + n * size ≤ b.bufBytes) := by
  simpa [rangeOk] using h

end Sys2Proof.Machine
end

