-- ==== Sys2Proof/Laws/Exec.lean ====
section
/-! SUPPORT. The commands' results as equations, the elements they write, and what one step can do. -/

namespace Sys2Proof.Machine

/-! ### The waveform's bytes (R117, R149, R183) -/

variable {w : Nat} (enc : Int → BitVec w) (idx shift : Nat) (pos : Nat → Nat)

theorem elementBytes_succ (n : Nat) :
    elementBytes enc idx shift (n + 1) pos =
      elementBytes enc idx shift n pos ++ leBytes (w / 8) (enc (chip idx shift (pos n))) := by
  simp [elementBytes, List.range_succ]

theorem elementBytes_length (n : Nat) : (elementBytes enc idx shift n pos).length = n * (w / 8) := by
  induction n with
  | zero => simp [elementBytes]
  | succ n ih => rw [elementBytes_succ, List.length_append, ih, leBytes_length, Nat.succ_mul]

/-- Byte `j` of element `i` is byte `j` of that element's encoding. -/
theorem elementBytes_getD (n i j : Nat) (hi : i < n) (hj : j < w / 8) :
    (elementBytes enc idx shift n pos).getD (i * (w / 8) + j) 0#8 =
      (enc (chip idx shift (pos i))).extractLsb' (8 * j) 8 := by
  induction n with
  | zero => omega
  | succ n ih =>
    rw [elementBytes_succ, List.getD_eq_getElem?_getD]
    have hlen := elementBytes_length enc idx shift pos n
    by_cases h : i < n
    · have hlt : i * (w / 8) + j < (elementBytes enc idx shift n pos).length := by
        rw [hlen]; calc i * (w / 8) + j < i * (w / 8) + w / 8 := by omega
          _ = (i + 1) * (w / 8) := by rw [Nat.succ_mul]
          _ ≤ n * (w / 8) := Nat.mul_le_mul_right _ h
      rw [List.getElem?_append_left hlt, ← List.getD_eq_getElem?_getD, ih h]
    · obtain rfl : i = n := by omega
      rw [List.getElem?_append_right (by omega), hlen, Nat.add_sub_cancel_left, List.getElem?_eq_getElem (by simpa using hj)]
      simp [leBytes]

/-- Each element of a waveform reads back from where it was written (R86, R149). -/
theorem memRead_waveform (m : Memory) (a n i : Nat) (hw : w = 8 * (w / 8)) (hi : i < n) :
    (m.writeBytes a (elementBytes enc idx shift n pos)).memRead (a + i * (w / 8)) (w / 8) =
      (enc (chip idx shift (pos i))).toNat := by
  apply Memory.memRead_of_bytes _ _ _ _ (by omega)
  intro j hj
  have hbound : i * (w / 8) + j < n * (w / 8) := by
    calc i * (w / 8) + j < i * (w / 8) + w / 8 := by omega
      _ = (i + 1) * (w / 8) := by rw [Nat.succ_mul]
      _ ≤ n * (w / 8) := Nat.mul_le_mul_right _ hi
  rw [Memory.byte_writeBytes, elementBytes_length, if_pos (by omega)]
  rw [show a + i * (w / 8) + j - a = i * (w / 8) + j by omega, elementBytes_getD _ _ _ _ _ _ _ hi hj]

/-! ### The commands as equations (R260, R149 to R152, R183, R210 to R213, R241) -/

variable (s : State)

@[simp] theorem exec_nop : exec .nop s = .next s := rfl
@[simp] theorem exec_genInt : exec .genInt s = .next (genCommon 32 encodeInt s) := rfl
@[simp] theorem exec_genReal : exec .genReal s = .next (genCommon 32 encodeReal s) := rfl
@[simp] theorem exec_genCplx : exec .genCplx s = .next (genCommon 64 encodeCplx s) := rfl
@[simp] theorem exec_genResamp : exec .genResamp s = .next (resampled s) := rfl
@[simp] theorem exec_discFll : exec .discFll s = .next (s.setRes (fllResult s.build (s.component 0) (s.component 1)
    (s.component 2) (s.component 3) s.argT1 s.argT2)) := rfl
@[simp] theorem exec_discPll4q :
    exec .discPll4q s = .next (s.setRes (canon (atan2 s.build (s.component 1) (s.component 0)))) := rfl
@[simp] theorem exec_discCostas :
    exec .discCostas s = .next (s.setRes (canon (atan s.build (div64 (s.component 1) (s.component 0))))) := rfl
@[simp] theorem exec_discDll : exec .discDll s =
    .next (s.setRes (dllResult (s.component 0) (s.component 1) (s.component 2) (s.component 3))) := rfl
@[simp] theorem exec_preCorr : exec .preCorr s = .next
    (if s.srcOk then s.setRes (BitVec.ofInt 64 (windowScore s.build s.buf s.src))
    else (s.raise .errAddr).setRes 0#64) := rfl

/-- What GEN_COMMON does to BUF: the waveform when both checks pass, else nothing (R149). -/
theorem genCommon_buf : (genCommon w enc s).buf =
    if s.prnOk && s.dstOk (w / 8) 1023 then
      s.buf.writeBytes s.dst (elementBytes enc s.tableIndex s.chipShift 1023 id)
    else s.buf := rfl

/-- What GEN_COMMON leaves in RES (R116, R149). -/
theorem genCommon_res : (genCommon w enc s).res =
    if s.prnOk && s.dstOk (w / 8) 1023 then BitVec.ofNat 64 1023 else 0#64 := rfl

/-- What GEN_RESAMP does to BUF (R183). -/
theorem resampled_buf : (resampled s).buf =
    if s.prnOk && s.dstOk 8 s.samples && decide (0 < s.samples) then
      s.buf.writeBytes s.dst
        (elementBytes encodeCplx s.tableIndex s.chipShift s.samples (srcIdx s.fs.toNat s.samples))
    else s.buf := rfl

/-- What GEN_RESAMP leaves in RES (R116, R183). -/
theorem resampled_res : (resampled s).res =
    if s.prnOk && s.dstOk 8 s.samples && decide (0 < s.samples) then BitVec.ofNat 64 s.samples else 0#64 := rfl

/-! ### The two checks of a generation command (R141 to R143, R84) -/

/-- The PRN check, as a condition on the PRN (R141, R142). -/
theorem State.prnOk_iff : s.prnOk = true ↔ (1 ≤ s.prn ∧ s.prn ≤ 51) ∨ (120 ≤ s.prn ∧ s.prn ≤ 138) := by
  have h : s.prnOk = true ↔ 0 ≤ prnIndex s.prn ∧ prnIndex s.prn ≤ 50 := by simp [State.prnOk, indexOk]
  rw [h]
  unfold prnIndex
  split <;> omega

/-- The condition of WARN_PRN, as a condition on the PRN (R143). -/
theorem State.prnWarn_iff : (s.prnOk && !prnListed s.prn) = true ↔ 33 ≤ s.prn ∧ s.prn ≤ 51 := by
  rw [Bool.and_eq_true, State.prnOk_iff, Bool.not_eq_true', ← Bool.not_eq_true]
  simp only [prnListed, Bool.or_eq_true, Bool.and_eq_true, decide_eq_true_eq]
  omega

/-- The table index of a PRN that passes the check (R141). -/
theorem State.tableIndex_of_prnOk (h : s.prnOk = true) :
    s.tableIndex = if 120 ≤ s.prn then (s.prn - 88).toNat else (s.prn - 1).toNat := by
  rw [State.prnOk_iff] at h
  unfold State.tableIndex prnIndex
  split <;> split <;> omega

/-- The range check of a destination (R84). -/
theorem State.dstOk_iff (size n : Nat) :
    s.dstOk size n = true ↔ n = 0 ∨ (s.dst % size = 0 ∧ s.dst + n * size ≤ s.build.bufBytes) := by
  simp [State.dstOk, rangeOk]

/-- The range check of PRE_CORR (R84, R85). -/
theorem State.srcOk_iff :
    s.srcOk = true ↔ s.build.preLen = 0 ∨ (s.src % 8 = 0 ∧ s.src + s.build.preLen * 8 ≤ s.build.bufBytes) := by
  simp [State.srcOk, rangeOk]

/-! ### The engine and the step (R262, R263) -/

/-- The engine on a legal word. -/
theorem runPending_legal {i : Instr} {t : State} (hd : decode s.lastCmd = .ok i) (he : exec i s = .next t) :
    runPending s = .next t.complete := by
  simp [runPending, hd, he, completing]

/-- The engine on an illegal word (R112). -/
theorem runPending_illegal {e : Illegal} (hd : decode s.lastCmd = .error e) :
    runPending s = .next (s.raise .errCmd).complete := by
  simp [runPending, hd, completing]

/-- What the engine's step can do: the legal command's rule, or ERR_CMD; then completion. -/
theorem runPending_cases {t : State} (h : runPending s = .next t) :
    (∃ i u, decode s.lastCmd = .ok i ∧ exec i s = .next u ∧ t = u.complete) ∨
      (∃ e, decode s.lastCmd = .error e ∧ t = (s.raise .errCmd).complete) := by
  unfold runPending at h
  split at h
  · rename_i i hd
    cases he : exec i s with
    | next u => exact .inl ⟨i, u, hd, he, by simpa [he, completing] using h.symm⟩
    | fault r => simp [he, completing] at h
    | refused r => simp [he, completing] at h
  · rename_i e hd
    exact .inr ⟨e, hd, by simpa [completing] using h.symm⟩

theorem step_turn {t : Turn} {rest : List Turn} (h : s.turns = t :: rest) :
    step s = takeTurn t { s with turns := rest } := by simp [step, h]

theorem step_no_turn (h : s.turns = []) :
    step s = if s.status.busy then takeTurn .engine s else takeTurn .host s := by simp [step, h]

/-- Everything one step can do: for the state `u` that differs from `s` at most in its turns, the host's transaction,
the platform's reset, an engine turn with nothing pending, or the engine's step on the pending word. -/
theorem step_cases {t : State} (h : step s = .next t) :
    ∃ u : State, (u = s ∨ ∃ x rest, s.turns = x :: rest ∧ u = { s with turns := rest }) ∧
      (t = u.hostStep ∨ t = u.powerOn ∨ (u.status.busy = false ∧ t = u) ∨
        (u.status.busy = true ∧ runPending u = .next t)) := by
  have key : ∀ (x : Turn) (u : State), takeTurn x u = .next t →
      (t = u.hostStep ∨ t = u.powerOn ∨ (u.status.busy = false ∧ t = u) ∨
        (u.status.busy = true ∧ runPending u = .next t)) := by
    intro x u hx
    cases x with
    | host => exact .inl (by simpa [takeTurn] using hx.symm)
    | powerOn => exact .inr (.inl (by simpa [takeTurn] using hx.symm))
    | engine =>
      simp only [takeTurn, engineTurn] at hx
      split at hx
      · exact .inr (.inr (.inr ⟨‹_›, hx⟩))
      · exact .inr (.inr (.inl ⟨by simpa using ‹¬ u.status.busy = true›, by simpa using hx.symm⟩))
  cases ht : s.turns with
  | nil =>
    rw [step_no_turn s ht] at h
    split at h
    · exact ⟨s, .inl rfl, key _ _ h⟩
    · exact ⟨s, .inl rfl, key _ _ h⟩
  | cons x rest =>
    rw [step_turn s ht] at h
    exact ⟨_, .inr ⟨x, rest, rfl, rfl⟩, key _ _ h⟩

end Sys2Proof.Machine
end

