-- ==== Sys2Proof/Laws/HostBus.lean ====
section
/-! SUPPORT. What a window offset can address and everything one host access can do. -/

namespace Sys2Proof.Machine

/-- The BUF window holds the aligned offsets of R81 and nothing else. -/
theorem targetOf_eq_buf {b : Build} {off : Offset} {a : Nat} :
    targetOf b off = .buf a ↔
      off.toNat % 4 = 0 ∧ 0x400 ≤ off.toNat ∧ 0x100000 ≤ off.toNat ∧ off.toNat < 0x100000 + b.bufBytes ∧
        a = off.toNat - 0x100000 := by
  unfold targetOf
  dsimp only
  split
  · simp_all
  · split
    · constructor
      · intro h; split at h <;> cases h
      · rintro ⟨_, h, _⟩; omega
    · split
      · rename_i h1 h2 h3
        constructor
        · intro h; exact ⟨by omega, by omega, h3.1, h3.2, (Target.buf.inj h).symm⟩
        · rintro ⟨_, _, _, _, h⟩; rw [h]
      · rename_i h1 h2 h3
        constructor
        · intro h; cases h
        · rintro ⟨_, _, h4, h5, _⟩; exact absurd ⟨h4, h5⟩ h3

/-- A register stands at an aligned offset of the register window. -/
theorem targetOf_eq_reg {b : Build} {off : Offset} {r : Reg} :
    targetOf b off = .reg r ↔ off.toNat % 4 = 0 ∧ off.toNat < 0x400 ∧ regAt (off.toNat / 4) = some r := by
  unfold targetOf
  dsimp only
  split
  · simp_all
  · split
    · constructor
      · intro h; split at h
        · rename_i r' hr; cases h; exact ⟨by omega, ‹_›, hr⟩
        · cases h
      · rintro ⟨_, _, h⟩; rw [h]
    · split
      · constructor
        · intro h; cases h
        · rintro ⟨_, h, _⟩; omega
      · constructor
        · intro h; cases h
        · rintro ⟨_, h, _⟩; omega

variable (off : Offset) (w : Word) (s : State)

/-- Everything a host read can do to the state: nothing, HOST_ERR on a bad access, OVR on BUF while BUSY = 1. -/
theorem hostRead_state_cases :
    (targetOf s.build off = .bad ∧ (hostRead off s) = (0#32, s.raise .hostErr)) ∨
      (∃ r, targetOf s.build off = .reg r ∧ hostRead off s = (s.regValue r, s)) ∨
      (∃ a, targetOf s.build off = .buf a ∧ s.status.busy = true ∧ hostRead off s = (0#32, s.raise .ovr)) ∨
      (∃ a, targetOf s.build off = .buf a ∧ s.status.busy = false ∧
        hostRead off s = (BitVec.ofNat 32 (s.buf.memRead a 4), s)) := by
  unfold hostRead
  cases targetOf s.build off with
  | bad => simp
  | reg r => simp
  | buf a => cases s.status.busy <;> simp

/-- Everything a write to a register can do. -/
theorem State.writeReg_cases (r : Reg) :
    s.writeReg r w = s.raise .hostErr ∨
      (s.status.busy = true ∧ s.writeReg r w = s.raise .ovr) ∨
      (r = .ctrl ∧ w.getLsbD 31 = true ∧ s.writeReg r w = s.softReset) ∨
      (r = .ctrl ∧ w.getLsbD 31 = false ∧ s.writeReg r w = { s with ctrl := Ctrl.ofWord w }) ∨
      (r = .status ∧ s.writeReg r w = { s with status := s.status.writeOneToClear w }) ∨
      (r = .cmd ∧ s.status.busy = false ∧ s.writeReg r w = s.accept w) ∨
      (∃ i, r = .arg i ∧ s.status.busy = false ∧ s.writeReg r w = s.setArg i w) := by
  cases r <;> simp only [State.writeReg, true_or, reduceCtorEq, false_and, false_or, true_and]
  case ctrl => cases w.getLsbD 31 <;> simp
  case status => simp
  case cmd => cases s.status.busy <;> simp
  case arg i => cases s.status.busy <;> simp

/-- Everything a host write can do. -/
theorem hostWrite_cases :
    hostWrite off w s = s.raise .hostErr ∨
      (s.status.busy = true ∧ hostWrite off w s = s.raise .ovr) ∨
      (targetOf s.build off = .reg .ctrl ∧ w.getLsbD 31 = true ∧ hostWrite off w s = s.softReset) ∨
      (targetOf s.build off = .reg .ctrl ∧ w.getLsbD 31 = false ∧
        hostWrite off w s = { s with ctrl := Ctrl.ofWord w }) ∨
      (targetOf s.build off = .reg .status ∧
        hostWrite off w s = { s with status := s.status.writeOneToClear w }) ∨
      (targetOf s.build off = .reg .cmd ∧ s.status.busy = false ∧ hostWrite off w s = s.accept w) ∨
      (∃ i, targetOf s.build off = .reg (.arg i) ∧ s.status.busy = false ∧ hostWrite off w s = s.setArg i w) ∨
      (∃ a, targetOf s.build off = .buf a ∧ s.status.busy = false ∧
        hostWrite off w s = { s with buf := s.buf.memWrite a 4 w }) := by
  unfold hostWrite
  cases targetOf s.build off with
  | bad => simp
  | buf a => cases s.status.busy <;> simp
  | reg r =>
    rcases State.writeReg_cases w s r with h | ⟨hb, h⟩ | ⟨rfl, hw, h⟩ | ⟨rfl, hw, h⟩ | ⟨rfl, h⟩ | ⟨rfl, hb, h⟩ |
      ⟨i, rfl, hb, h⟩
    · exact .inl h
    · exact .inr (.inl ⟨hb, h⟩)
    · exact .inr (.inr (.inl ⟨rfl, hw, h⟩))
    · exact .inr (.inr (.inr (.inl ⟨rfl, hw, h⟩)))
    · exact .inr (.inr (.inr (.inr (.inl ⟨rfl, h⟩))))
    · exact .inr (.inr (.inr (.inr (.inr (.inl ⟨rfl, hb, h⟩)))))
    · exact .inr (.inr (.inr (.inr (.inr (.inr (.inl ⟨i, rfl, hb, h⟩))))))

/-- The host's step is one access, and moves only the host's own program and names beside it. -/
theorem State.hostStep_cases :
    s.hostStep = s ∨
      (∃ off w rest, s.host = .write off w :: rest ∧ s.hostStep = { hostWrite off w s with host := rest }) ∨
      (∃ off rest reads, s.hostStep = { (hostRead off s).2 with host := rest, reads := reads }) := by
  unfold State.hostStep
  cases hh : s.host with
  | nil => simp
  | cons op rest =>
    cases op with
    | write off w => exact .inr (.inl ⟨off, w, rest, rfl, rfl⟩)
    | read off name => exact .inr (.inr ⟨off, rest, _, rfl⟩)
    | poll off mask value =>
      have hsame : ∀ u : State, u = { u with host := u.host, reads := u.reads } := fun _ => rfl
      refine .inr (.inr ?_)
      dsimp only
      split
      · exact ⟨off, rest, (hostRead off s).2.reads, rfl⟩
      · exact ⟨off, (hostRead off s).2.host, (hostRead off s).2.reads, rfl⟩

end Sys2Proof.Machine
end

