-- ==== Sys2Proof/Laws/PerInstr.lean ====
section
/-! SUPPORT. Statements about every command as syntax, one lemma per constructor. -/

namespace Sys2Proof.Laws.Encoding

/-- The command's word is its opcode with zeros above it, its bits are read back as that command by the decoder and
through the opcode table's numbering, and the command is well formed (R110, R111). -/
def Statement (i : Instr) : Prop :=
  i.wf = true ∧ cmdOp (encode i) = i.op ∧ cmdRsvd (encode i) = 0#24 ∧ decode (encode i) = .ok i ∧
    decodeTableWord 32 (encode i).toNat = some i

theorem nop : Statement .nop := by unfold Statement; decide
theorem genInt : Statement .genInt := by unfold Statement; decide
theorem genReal : Statement .genReal := by unfold Statement; decide
theorem genCplx : Statement .genCplx := by unfold Statement; decide
theorem genResamp : Statement .genResamp := by unfold Statement; decide
theorem discFll : Statement .discFll := by unfold Statement; decide
theorem discPll4q : Statement .discPll4q := by unfold Statement; decide
theorem discCostas : Statement .discCostas := by unfold Statement; decide
theorem discDll : Statement .discDll := by unfold Statement; decide
theorem preCorr : Statement .preCorr := by unfold Statement; decide

end Sys2Proof.Laws.Encoding
end

