-- ==== Sys2Proof/Tests/Slice0.lean ====
section
/-! SUPPORT. The model's own tests. Every expected value is copied from spec/95_test_vectors.md, from an encoding table
of spec/, or worked out by hand from a rule; the second part meets the hypotheses of the statements. -/

namespace Sys2Proof.Tests

open Sys2Proof.Machine Sys2Proof.Claims

set_option maxRecDepth 100000

/-! ### Helpers -/

/-- The next state of an outcome. -/
def after (o : Host.Outcome State Fault Refusal) : State :=
  match o with
  | .next t => t
  | .fault _ => State.reset
  | .refused _ => State.reset

/-- The reset state with these operands. -/
def withArgs (a : Vector Word 8) : State := { State.reset with args := a }

/-- The reset state with these operands and the word `w` pending, the engine's turn next. -/
def pending (w : Word) (a : Vector Word 8) : State := (withArgs a).placeCommand w

/-- The state after the one step that runs the word `w` with these operands. -/
def ran (w : Word) (a : Vector Word 8) : State := after (step (pending w a))

/-- What a host would read from STATUS and RES. -/
def report (s : State) : Nat × Nat := (s.status.toWord.toNat, s.res.toNat)

/-- The reset state of a build with one symbol per preamble bit, the symbols `xs` standing at BUF offset 0. -/
def withWindow (xs : List B64) : State :=
  { State.reset with
    build := { Build.reference with preSpb := 1 }
    buf := State.reset.buf.writeBytes 0 (xs.flatMap (leBytes 8)) }

/-- +1.0 and −1.0. -/
def one64 : B64 := 0x3FF0000000000000#64

/-- See `one64`. -/
def minusOne64 : B64 := 0xBFF0000000000000#64

/-- The reset state with a command pending, so BUSY = 1. -/
def busy : State := State.reset.accept 0x00000000#32

/-- The reset state of a build with another BUF_ADDR_BITS. -/
def smallBuild : State := { State.reset with build := { Build.reference with bufAddrBits := 13 } }

/-! ### Well-formedness (R10): each check refuses an ill-formed build -/

theorem test_wf_reference : Build.reference.wf = true := by decide
theorem test_wf_buf_addr_bits_low : ({ Build.reference with bufAddrBits := 12 } : Build).wf = false := by decide
theorem test_wf_buf_addr_bits_high : ({ Build.reference with bufAddrBits := 21 } : Build).wf = false := by decide
theorem test_wf_nbits_low : ({ Build.reference with preNbits := 0 } : Build).wf = false := by decide
theorem test_wf_nbits_high : ({ Build.reference with preNbits := 33 } : Build).wf = false := by decide
theorem test_wf_spb_low : ({ Build.reference with preSpb := 0 } : Build).wf = false := by decide
theorem test_wf_spb_high : ({ Build.reference with preSpb := 256 } : Build).wf = false := by decide

/-! ### Decoding: the words of R111, bit by bit (R110: bits 31:8 zero, OP in bits 7:0) -/

theorem test_decode_nop : decode 0b00000000000000000000000000000000#32 = .ok .nop := by decide
theorem test_decode_genInt : decode 0b00000000000000000000000000000001#32 = .ok .genInt := by decide
theorem test_decode_genReal : decode 0b00000000000000000000000000000010#32 = .ok .genReal := by decide
theorem test_decode_genCplx : decode 0b00000000000000000000000000000011#32 = .ok .genCplx := by decide
theorem test_decode_genResamp : decode 0b00000000000000000000000000000100#32 = .ok .genResamp := by decide
theorem test_decode_discFll : decode 0b00000000000000000000000000010000#32 = .ok .discFll := by decide
theorem test_decode_discPll4q : decode 0b00000000000000000000000000010001#32 = .ok .discPll4q := by decide
theorem test_decode_discCostas : decode 0b00000000000000000000000000010010#32 = .ok .discCostas := by decide
theorem test_decode_discDll : decode 0b00000000000000000000000000010011#32 = .ok .discDll := by decide
theorem test_decode_preCorr : decode 0b00000000000000000000000000100000#32 = .ok .preCorr := by decide
/-- A set bit of RSVD makes GEN_INT's word illegal (95_test_vectors.md 2.5). -/
theorem test_decode_reserved_bits : decode 0b00000000000000000000000100000001#32 = .error .reservedBits := by decide
/-- OP 0x05 is not in the table (95_test_vectors.md 2.5). -/
theorem test_decode_reserved_op : decode 0b00000000000000000000000000000101#32 = .error .reservedOp := by decide
/-- A table word with a bit above the 32 of a command is no command (R110). -/
theorem test_decode_wide_word : decodeTableWord 40 0x100000001 = none := by decide

/-! ### The generator (95_test_vectors.md 2.1) -/

/-- Chips 0..15 and 1022 of PRN 1 (2.1.3). -/
theorem test_chips_prn1 : (List.range 16).map (chip 0 0) = [1, 1, -1, -1, 1, -1, -1, -1, -1, -1, 1, 1, 1, -1, -1, 1] ∧
    chip 0 0 1022 = -1 := by decide +kernel
/-- W0 of PRN 2, 0x997C1C27 (2.1.4): its lowest eight chips, 0x27. -/
theorem test_chips_prn2 : (List.range 8).map (chip 1 0) = [1, 1, 1, -1, -1, 1, -1, -1] := by decide +kernel
/-- G1 and G2 at the start of iteration 12 (2.1.1). -/
theorem test_registers : (genIterate 12 0 genStart).g1 = 0x08E#10 ∧ (genIterate 12 0 genStart).g2 = 0x12D#10 := by
  decide +kernel

/-- GEN_INT 1, 0, 0 (W1, 2.1.3): RES, STATUS and the words of chips 1 and 2. -/
theorem test_genInt : let s := ran 0x01#32 #v[1#32, 0#32, 0#32, 0#32, 0#32, 0#32, 0#32, 0#32]
    report s = (0x2, 1023) ∧ s.buf.memRead 0x4 4 = 1 ∧ s.buf.memRead 0x8 4 = 0xFFFFFFFF := by decide +kernel
/-- GEN_INT with PRN 0 and DST 2: both checks fail (2.1.3). -/
theorem test_genInt_both_checks :
    report (ran 0x01#32 #v[0#32, 0#32, 2#32, 0#32, 0#32, 0#32, 0#32, 0#32]) = (0x16, 0) := by decide +kernel
/-- GEN_REAL 1, 0, 0x1000 (2.1.3). -/
theorem test_genReal : let s := ran 0x02#32 #v[1#32, 0#32, 0x1000#32, 0#32, 0#32, 0#32, 0#32, 0#32]
    report s = (0x2, 1023) ∧ s.buf.memRead 0x1004 4 = 0x3F800000 ∧ s.buf.memRead 0x1008 4 = 0xBF800000 := by
  decide +kernel
/-- GEN_REAL's range ends at the last byte from 0xFF004, and overruns from 0xFF008 (2.1.3). -/
theorem test_genReal_end : report (ran 0x02#32 #v[1#32, 0#32, 0xFF004#32, 0#32, 0#32, 0#32, 0#32, 0#32]) = (0x2, 1023) ∧
    report (ran 0x02#32 #v[1#32, 0#32, 0xFF008#32, 0#32, 0#32, 0#32, 0#32, 0#32]) = (0x12, 0) := by decide +kernel
/-- GEN_CPLX 1, 0, 0x2000 (2.1.3): the imaginary part lies in the upper word. -/
theorem test_genCplx : let s := ran 0x03#32 #v[1#32, 0#32, 0x2000#32, 0#32, 0#32, 0#32, 0#32, 0#32]
    report s = (0x2, 1023) ∧ s.buf.memRead 0x2000 4 = 0 ∧ s.buf.memRead 0x200C 4 = 0x3F800000 ∧
      s.buf.memRead 0x2014 4 = 0xBF800000 := by decide +kernel
/-- GEN_CPLX with PRN 33 and DST 4: WARN_PRN and ERR_ADDR (2.1.3). -/
theorem test_genCplx_warn :
    report (ran 0x03#32 #v[33#32, 0#32, 4#32, 0#32, 0#32, 0#32, 0#32, 0#32]) = (0x1A, 0) := by decide +kernel
/-- GEN_RESAMP 1, 0, 0, 2000 (W11, 2.2): two samples, the last of chip 1022, which is −1. -/
theorem test_genResamp : let s := ran 0x04#32 #v[1#32, 0#32, 0#32, 2000#32, 0#32, 0#32, 0#32, 0#32]
    report s = (0x2, 2) ∧ s.buf.memRead 0x8 4 = 0 ∧ s.buf.memRead 0xC 4 = 0xBF800000 := by decide +kernel
/-- The index patterns of 2,000,000 Hz and 4,000,000 Hz (2.2). -/
theorem test_srcIdx : (List.range 8).map (srcIdx 2000000 2000) = [0, 1, 1, 2, 2, 3, 3, 4] ∧
    (List.range 12).map (srcIdx 4000000 4000) = [0, 0, 0, 1, 1, 1, 1, 2, 2, 2, 2, 3] ∧
    srcIdx 1500 1 0 = 1022 := by decide
/-- GEN_RESAMP with fs = 131,073,000 does not fit, and with PRN 0 and fs = 999 still sets ERR_PRN (2.2). -/
theorem test_genResamp_checks :
    report (ran 0x04#32 #v[1#32, 0#32, 0#32, 131073000#32, 0#32, 0#32, 0#32, 0#32]) = (0x12, 0) ∧
      report (ran 0x04#32 #v[0#32, 0#32, 0#32, 999#32, 0#32, 0#32, 0#32, 0#32]) = (0x6, 0) := by decide +kernel

/-! ### The discriminators (95_test_vectors.md 2.3) -/

/-- (3, 4), (4, 3), 10.0, 10.001. -/
theorem test_discFll : report (ran 0x10#32 #v[0x40400000#32, 0x40800000#32, 0x40800000#32, 0x40400000#32, 0#32,
    0x40240000#32, 0x126E978D#32, 0x40240083#32]) = (0x2, 0x4071BCB4ABDB7E57) := by decide +kernel
/-- (1, 0), (0, 1), 1, 1: the denominator is +0. -/
theorem test_discFll_infinite : report (ran 0x10#32 #v[0x3F800000#32, 0#32, 0#32, 0x3F800000#32, 0#32, 0x3FF00000#32,
    0#32, 0x3FF00000#32]) = (0x2, 0x7FF0000000000000) := by decide +kernel
/-- (3, 4): I is ARG0 and Q is ARG1. -/
theorem test_discPll4q : report (ran 0x11#32 #v[0x40400000#32, 0x40800000#32, 0#32, 0#32, 0#32, 0#32, 0#32, 0#32]) =
    (0x2, 0x3FEDAC670561BB4F) := by decide +kernel
/-- (−1, −0): the branch cut. -/
theorem test_discPll4q_cut : report (ran 0x11#32 #v[0xBF800000#32, 0x80000000#32, 0#32, 0#32, 0#32, 0#32, 0#32, 0#32]) =
    (0x2, 0xC00921FB54442D18) := by decide +kernel
/-- (2, 1). -/
theorem test_discCostas : report (ran 0x12#32 #v[0x40000000#32, 0x3F800000#32, 0#32, 0#32, 0#32, 0#32, 0#32, 0#32]) =
    (0x2, 0x3FDDAC670561BB4F) := by decide +kernel
/-- (−0, 1). -/
theorem test_discCostas_zero : report (ran 0x12#32 #v[0x80000000#32, 0x3F800000#32, 0#32, 0#32, 0#32, 0#32, 0#32, 0#32]) =
    (0x2, 0xBFF921FB54442D18) := by decide +kernel
/-- (1, 1), (1, 0). -/
theorem test_discDll : report (ran 0x13#32 #v[0x3F800000#32, 0x3F800000#32, 0x3F800000#32, 0#32, 0#32, 0#32, 0#32,
    0#32]) = (0x2, 0x3FC5F619980C4339) := by decide +kernel
/-- All components zero. -/
theorem test_discDll_zero : report (ran 0x13#32 #v[0#32, 0#32, 0#32, 0#32, 0#32, 0#32, 0#32, 0#32]) =
    (0x2, 0x7FF8000000000000) := by decide +kernel

/-- By R202 (a) for x = 2^(−60), whose arctangent is x − x^3/3 + …: x and the binary64 below it are within 1 ulp, the
next ones on either side are not; and the correctly rounded value is x. -/
theorem test_admits : let g := angleOf (2 ^ 52) (-112) false 1 0
    g.admits 0x3C30000000000000 = true ∧ g.admits 0x3C2FFFFFFFFFFFFF = true ∧ g.admits 0x3C2FFFFFFFFFFFFE = false ∧
      g.admits 0x3C30000000000001 = false ∧ g.nearestBits = 0x3C30000000000000 := by decide +kernel
/-- By R201 (a) for an angle far below the smallest subnormal: 0 is within 1 ulp, and a proposal of −0 may stand. -/
theorem test_underflow : (angleOf 1 (-1074) false 1 1000).value false 0x8000000000000000#64 piBits = 0x8000000000000000#64 ∧
    (angleOf 1 (-1074) false 1 1000).value true 0x8000000000000000#64 piBits = 0#64 := by decide +kernel

/-! ### PRE_CORR, NOP and the host (95_test_vectors.md 2.4, 2.5, 2.6) -/

/-- The default reference (R51): 20 times +1, 60 times −1, 20 times +1, 20 times −1, 40 times +1. -/
theorem test_pref : (List.range 160).map (pref Build.reference) =
    List.replicate 20 1 ++ List.replicate 60 (-1) ++ List.replicate 20 1 ++ List.replicate 20 (-1) ++
      List.replicate 40 1 := by decide +kernel
/-- By R241 for the pattern 10001011: the reference itself scores 8; +1.0 and then seven times −1.0 scores
1 + 3 − 1 + 1 − 2 = 2. -/
theorem test_preCorr : report (after (step ((withWindow [one64, minusOne64, minusOne64, minusOne64, one64, minusOne64,
      one64, one64]).placeCommand 0x20#32))) = (0x2, 8) ∧
    report (after (step ((withWindow (one64 :: List.replicate 7 minusOne64)).placeCommand 0x20#32))) = (0x2, 2) := by
  decide +kernel
/-- SRC = 0xFFB08 needs 1280 bytes. -/
theorem test_preCorr_range : report (ran 0x20#32 #v[0xFFB08#32, 0#32, 0#32, 0#32, 0#32, 0#32, 0#32, 0#32]) = (0x12, 0) := by
  decide
/-- NOP sets DONE and nothing else. -/
theorem test_nop : report (ran 0x00#32 #v[0#32, 0#32, 0#32, 0#32, 0#32, 0#32, 0#32, 0#32]) = (0x2, 0) := by decide
/-- An illegal word sets ERR_CMD, and CMD reads it back. -/
theorem test_illegal : let s := ran 0x05#32 #v[1#32, 0#32, 0#32, 0#32, 0#32, 0#32, 0#32, 0#32]
    report s = (0x22, 0) ∧ (hostRead 0x014#21 s).1 = 0x05#32 := by decide
/-- Bad accesses: misaligned, reserved, read-only, unmapped; misaligned while BUSY = 1 leaves OVR alone. -/
theorem test_bad_accesses : (hostWrite 0x002#21 1#32 State.reset).status.toWord = 0x80#32 ∧
    (hostRead 0x054#21 State.reset).1 = 0#32 ∧ (hostRead 0x054#21 State.reset).2.status.toWord = 0x80#32 ∧
    (hostWrite 0x000#21 0#32 State.reset).status.toWord = 0x80#32 ∧
    (hostRead 0x400#21 State.reset).2.status.toWord = 0x80#32 ∧
    (hostRead 0x002#21 busy).2.status.toWord = 0x81#32 := by decide
/-- ARG and BUF while BUSY = 1. -/
theorem test_overrun : (hostWrite 0x020#21 5#32 busy).status.toWord = 0x41#32 ∧
    (hostRead 0x100000#21 busy).1 = 0#32 ∧ (hostRead 0x100000#21 busy).2.status.toWord = 0x41#32 := by decide
/-- W1C of ERR_PRN alone: 0x16 becomes 0x12. -/
theorem test_write_one_to_clear :
    (hostWrite 0x010#21 0x4#32 { State.reset with
      status := { Status.clear with done := true, errPrn := true, errAddr := true } }).status.toWord = 0x12#32 := by decide
/-- IRQ: DONE with IE_DONE; WARN_PRN never; ERR_ADDR with IE_ERR. -/
theorem test_irq :
    ({ State.reset with ctrl := ⟨true, true⟩, status := { Status.clear with done := true, warnPrn := true } } : State).irq
      = true ∧
    ({ State.reset with ctrl := ⟨false, true⟩, status := { Status.clear with done := true, warnPrn := true } } : State).irq
      = false ∧
    ({ State.reset with ctrl := ⟨false, true⟩, status := { Status.clear with done := true, errAddr := true } } : State).irq
      = true := by decide
/-- The register reads after a power-on reset. -/
theorem test_reset_reads : [0x000, 0x004, 0x008, 0x00C, 0x010, 0x014, 0x018, 0x01C, 0x020, 0x040, 0x044, 0x048, 0x04C,
      0x050, 0x100, 0x17C, 0x180, 0x1C8].map (fun o => (hostRead (BitVec.ofNat 21 o) State.reset).1.toNat) =
    [0x47434F52, 0x00010000, 0x00003314, 0, 0, 0, 0, 0, 0, 0x8B, 0x00A01408, 0x3FF, 0xF9C18, 0x8A782001, 5, 862, 145,
      386] := by decide
/-- A word written to BUF reads back, low byte first (R83). -/
theorem test_buf_word : let s := hostWrite 0x100008#21 0x11223344#32 State.reset
    (hostRead 0x100008#21 s).1 = 0x11223344#32 ∧ s.buf.byte 8 = 0x44#8 ∧ s.buf.byte 11 = 0x11#8 := by decide

/-! ### Witnesses: concrete states and operands that meet the hypotheses of the statements -/

/-- The turns `ts` laid down in `s`. -/
def turning (ts : List Turn) (s : State) : State := { s with turns := ts }

theorem witness_DecodeOfEncode : Instr.genInt.wf = true := by decide

theorem witness_StepRunsThePendingCommand :
    ((turning [.engine] busy).status.busy = true ∧ decode (turning [.engine] busy).lastCmd = .ok .nop ∧
      (turning [.engine] busy).turns = .engine :: [] ∧
      exec .nop { turning [.engine] busy with turns := [] } = .next { turning [.engine] busy with turns := [] }) ∧
    ((pending 5#32 State.reset.args).status.busy = true ∧
      decode (pending 5#32 State.reset.args).lastCmd = .error .reservedOp ∧
      (pending 5#32 State.reset.args).turns = .engine :: []) ∧
    ((turning [.engine] State.reset).status.busy = false ∧ (turning [.engine] State.reset).turns = .engine :: []) :=
  ⟨⟨by decide, by decide, by decide, rfl⟩, by decide, by decide⟩

theorem witness_IllegalWordOnlyRaisesErrCmd :
    (0x05#32 : Word).toNat ∉ [0x00, 0x01, 0x02, 0x03, 0x04, 0x10, 0x11, 0x12, 0x13, 0x20] ∧
    (0x14#32 : Word).toNat ∉ [0x00, 0x01, 0x02, 0x03, 0x04, 0x10, 0x11, 0x12, 0x13, 0x20] ∧
    (0x21#32 : Word).toNat ∉ [0x00, 0x01, 0x02, 0x03, 0x04, 0x10, 0x11, 0x12, 0x13, 0x20] ∧
    (0x101#32 : Word).toNat ∉ [0x00, 0x01, 0x02, 0x03, 0x04, 0x10, 0x11, 0x12, 0x13, 0x20] ∧
    (turning [.engine] State.reset).status.busy = false ∧ (turning [.engine] State.reset).turns = .engine :: [] :=
  ⟨by simp, by simp, by simp, by simp, by decide, by decide⟩

theorem witness_AcceptanceIsOneHostStep : State.reset.status.busy = false ∧ busy.status.busy = true := by decide

theorem witness_NopDoesNothingBeyondCompletion :
    (pending 0#32 State.reset.args).status.busy = true ∧ (pending 0#32 State.reset.args).lastCmd = 0x00000000#32 ∧
      (pending 0#32 State.reset.args).turns = .engine :: [] ∧ (turning [.engine] State.reset).status.busy = false ∧
      (turning [.engine] State.reset).turns = .engine :: [] := by decide

/-- A pending command with host turns laid down and no reset among them; and one with no turn laid down. -/
theorem witness_PendingCommandCompletes :
    (busy.status.busy = true ∧ decode busy.lastCmd = .ok .nop ∧ busy.turns = [] ∧ exec .nop busy = .next busy) ∧
    (({ busy with turns := [.host, .host], host := pseudoClrst } : State).status.busy = true ∧
      (∀ x ∈ ({ busy with turns := [.host, .host], host := pseudoClrst } : State).turns, x ≠ .powerOn) ∧
      ∀ w, .write 0x00C#21 w ∈ ({ busy with turns := [.host, .host], host := pseudoClrst } : State).host →
        w.getLsbD 31 = false) :=
  ⟨⟨by decide, by decide, by decide, rfl⟩, by decide, by decide, by
    intro w hw; simp [pseudoClrst, statusOff] at hw⟩

/-- Two states that differ in LAST_CMD, RES and STATUS and complete PRE_CORR; and NOP. -/
theorem witness_CommandsDependOnOperandsOnly : ∃ t t' u u' : State,
    State.reset.args = ({ busy with lastCmd := 7#32, res := 9#64 } : State).args ∧
    State.reset.build = ({ busy with lastCmd := 7#32, res := 9#64 } : State).build ∧
    (∀ a, State.reset.buf.byte a = ({ busy with lastCmd := 7#32, res := 9#64 } : State).buf.byte a) ∧
    exec .preCorr State.reset = .next t ∧ exec .preCorr { busy with lastCmd := 7#32, res := 9#64 } = .next t' ∧
    Instr.preCorr ≠ .nop ∧ exec .nop State.reset = .next u ∧
    exec .nop { busy with lastCmd := 7#32, res := 9#64 } = .next u' :=
  ⟨_, _, _, _, rfl, rfl, fun _ => rfl, rfl, rfl, by decide, rfl, rfl⟩

theorem witness_CommandsKeepTheirFrame :
    ∃ t, exec .genInt (State.reset.raise .ovr) = .next t ∧ (State.reset.raise .ovr).status.has .ovr = true :=
  ⟨_, rfl, by decide⟩

/-- Both checks pass at both ends of the PRN ranges and at the last destination; either check fails just outside; both
sides of the destination range exist. -/
theorem witness_GenIntWritesTheCode :
    (prnInTable (withArgs #v[1#32, 0#32, 0#32, 0#32, 0#32, 0#32, 0#32, 0#32]) ∧
      dstInside (withArgs #v[1#32, 0#32, 0#32, 0#32, 0#32, 0#32, 0#32, 0#32]) 4 1023) ∧
    (prnInTable (withArgs #v[138#32, 0#32, 0xFF004#32, 0#32, 0#32, 0#32, 0#32, 0#32]) ∧
      dstInside (withArgs #v[138#32, 0#32, 0xFF004#32, 0#32, 0#32, 0#32, 0#32, 0#32]) 4 1023) ∧
    ¬ prnInTable (withArgs #v[52#32, 0#32, 0#32, 0#32, 0#32, 0#32, 0#32, 0#32]) ∧
    ¬ prnInTable (withArgs #v[0#32, 0#32, 0#32, 0#32, 0#32, 0#32, 0#32, 0#32]) ∧
    ¬ dstInside (withArgs #v[1#32, 0#32, 0xFF008#32, 0#32, 0#32, 0#32, 0#32, 0#32]) 4 1023 := by
  unfold prnInTable dstInside; decide

theorem witness_GenRealWritesTheCode :
    (prnInTable (withArgs #v[51#32, 0#32, 4#32, 0#32, 0#32, 0#32, 0#32, 0#32]) ∧
      dstInside (withArgs #v[51#32, 0#32, 4#32, 0#32, 0#32, 0#32, 0#32, 0#32]) 4 1023) ∧
    ¬ prnInTable (withArgs #v[119#32, 0#32, 4#32, 0#32, 0#32, 0#32, 0#32, 0#32]) ∧
    ¬ dstInside (withArgs #v[51#32, 0#32, 2#32, 0#32, 0#32, 0#32, 0#32, 0#32]) 4 1023 := by
  unfold prnInTable dstInside; decide

theorem witness_GenCplxWritesTheCode :
    (prnInTable (withArgs #v[120#32, 0#32, 0xFE008#32, 0#32, 0#32, 0#32, 0#32, 0#32]) ∧
      dstInside (withArgs #v[120#32, 0#32, 0xFE008#32, 0#32, 0#32, 0#32, 0#32, 0#32]) 8 1023) ∧
    ¬ prnInTable (withArgs #v[139#32, 0#32, 0xFE008#32, 0#32, 0#32, 0#32, 0#32, 0#32]) ∧
    ¬ dstInside (withArgs #v[120#32, 0#32, 4#32, 0#32, 0#32, 0#32, 0#32, 0#32]) 8 1023 := by
  unfold prnInTable dstInside; decide

/-- N = 131,072 fills BUF, N = 131,073 does not fit, N = 0 needs no range. -/
theorem witness_GenResampWritesTheSamples :
    (prnInTable (withArgs #v[1#32, 0#32, 0#32, 131072999#32, 0#32, 0#32, 0#32, 0#32]) ∧
      dstInside (withArgs #v[1#32, 0#32, 0#32, 131072999#32, 0#32, 0#32, 0#32, 0#32]) 8
        (samplesOf (withArgs #v[1#32, 0#32, 0#32, 131072999#32, 0#32, 0#32, 0#32, 0#32]))) ∧
    ¬ dstInside (withArgs #v[1#32, 0#32, 0#32, 131073000#32, 0#32, 0#32, 0#32, 0#32]) 8
      (samplesOf (withArgs #v[1#32, 0#32, 0#32, 131073000#32, 0#32, 0#32, 0#32, 0#32])) ∧
    dstInside (withArgs #v[1#32, 0#32, 3#32, 999#32, 0#32, 0#32, 0#32, 0#32]) 8
      (samplesOf (withArgs #v[1#32, 0#32, 3#32, 999#32, 0#32, 0#32, 0#32, 0#32])) := by
  unfold prnInTable dstInside samplesOf; decide

theorem witness_WorkingSequencesHaveTheClosedForm : genStart.g1 = 0x3FF#10 ∧ genStart.g2 = 0x3FF#10 := by decide

theorem witness_ChipsFollowTheDocumentsFormula : 50 ≤ 50 ∧ 1022 ≤ 1022 := by decide

theorem witness_ChipShiftRotatesTheCode : 0 ≤ 50 ∧ 1022 ≤ 1022 := by decide

theorem witness_CodesCorrelateAsGoldCodes :
    (0 ≤ 50 ∧ 50 ≤ 50 ∧ 1022 ≤ 1022) ∧ ((0 : Nat) ≠ 50 ∨ (0 : Nat) ≠ 0) ∧ ((0 : Nat) ≠ 0 ∨ (1022 : Nat) ≠ 0) := by decide

theorem witness_AliasedPrnsGiveTheSbasCode : isGen .genResamp ∧ 0 ≤ 18 ∧ 18 ≤ 18 := by unfold isGen; decide

theorem witness_InvalidPrnWritesNothing : isGen .genCplx ∧ State.reset.arg 0 = 0#32 ∧
    (withArgs #v[200#32, 0#32, 0#32, 0#32, 0#32, 0#32, 0#32, 0#32]).arg 0 = 200#32 := by unfold isGen; decide

theorem witness_SampleCountIsTheDocumentsFloor :
    0 ≤ (0x7FFFFFFF#32 : Word).toInt ∧ 0 ≤ (0#32 : Word).toInt ∧ (999#32 : Word).toInt < 1000 ∧
      (0x80000000#32 : Word).toInt < 1000 := by decide

/-- 2000 Hz has a first and a last sample; 3000 Hz has a sample with another before the last after it. -/
theorem witness_SourceIndexIsTheExactCeiling :
    (1000 ≤ 1000 ∧ 0 < 1000 / 1000 ∧ 0 + 1 = 1000 / 1000) ∧ (1000 ≤ 2000 ∧ 0 < 2000 / 1000 ∧ 0 + 1 ≠ 2000 / 1000) ∧
      (1000 ≤ 3000 ∧ 1 < 3000 / 1000 ∧ 0 ≤ 1 ∧ 1 + 2 ≤ 3000 / 1000) := by decide

theorem witness_ResamplingAtTheChipRateIsTheCode :
    (withArgs #v[1#32, 0#32, 0#32, 1023000#32, 0#32, 0#32, 0#32, 0#32]).arg 3 = 1023000#32 ∧
    (∃ t, exec .genResamp (withArgs #v[1#32, 0#32, 0#32, 1023000#32, 0#32, 0#32, 0#32, 0#32]) = .next t) ∧
    (∃ u, exec .genCplx (withArgs #v[1#32, 0#32, 0#32, 1023000#32, 0#32, 0#32, 0#32, 0#32]) = .next u) ∧
    2045 < 2046 := ⟨by decide, ⟨_, rfl⟩, ⟨_, rfl⟩, by decide⟩

theorem witness_LiteralDiscriminatorCases :
    (withArgs #v[0x3F800000#32, 0#32, 0#32, 0x3F800000#32, 0#32, 0#32, 0#32, 0x3FF00000#32]).args =
      #v[0x3F800000#32, 0#32, 0#32, 0x3F800000#32, 0#32, 0#32, 0#32, 0x3FF00000#32] ∧
    ((withArgs #v[0x3F800000#32, 0x3F800000#32, 0#32, 0#32, 0#32, 0#32, 0#32, 0#32]).arg 0 = 0x3F800000#32 ∧
      (withArgs #v[0x3F800000#32, 0x3F800000#32, 0#32, 0#32, 0#32, 0#32, 0#32, 0#32]).arg 1 = 0x3F800000#32 ∧
      State.reset.build.arctanReference = true) ∧
    ((withArgs #v[0x40000000#32, 0#32, 0x3F800000#32, 0#32, 0#32, 0#32, 0#32, 0#32]).arg 0 = 0x40000000#32 ∧
      (withArgs #v[0x40000000#32, 0#32, 0x3F800000#32, 0#32, 0#32, 0#32, 0#32, 0#32]).arg 1 = 0#32 ∧
      (withArgs #v[0x40000000#32, 0#32, 0x3F800000#32, 0#32, 0#32, 0#32, 0#32, 0#32]).arg 2 = 0x3F800000#32 ∧
      (withArgs #v[0x40000000#32, 0#32, 0x3F800000#32, 0#32, 0#32, 0#32, 0#32, 0#32]).arg 3 = 0#32) := by decide

/-- NaN, ±0, ±∞, the largest finite number and the smallest subnormal. -/
theorem witness_ArctangentSpecialCases :
    unpack64 0x7FF0000000000001#64 = .nan ∧ unpack64 0xFFFFFFFFFFFFFFFF#64 = .nan ∧
    (unpack64 0x8000000000000000#64 ≠ .nan ∧ magBits 0x8000000000000000#64 = 0) ∧
    (unpack64 0x0000000000000001#64 ≠ .nan ∧ magBits 0x0000000000000001#64 ≠ 0) ∧
    (unpack64 0xFFEFFFFFFFFFFFFF#64 ≠ .nan ∧ magBits 0xFFEFFFFFFFFFFFFF#64 < infBits) ∧
    (unpack64 0xFFF0000000000000#64 ≠ .nan ∧ magBits 0xFFF0000000000000#64 = infBits) := by decide

theorem witness_ArctangentsAreOddAndBounded :
    unpack64 0x3FF0000000000000#64 ≠ .nan ∧ unpack64 0xFFF0000000000000#64 ≠ .nan := by decide

theorem witness_ArctangentsAreWithinOneUlp :
    unpack64 0x0000000000000001#64 = .fin false 1 (-1074) ∧ 1 ≠ 0 ∧
      unpack64 0xBFF0000000000000#64 = .fin true (2 ^ 52) (-52) ∧ 2 ^ 52 ≠ 0 := by decide

theorem witness_WidenedProductsAreExact :
    unpack32 0x7F7FFFFF#32 = .fin false (2 ^ 24 - 1) 104 ∧ unpack32 0x80000001#32 = .fin true 1 (-149) := by decide

theorem witness_OperationsRoundToNearestEven :
    unpack64 0x7FEFFFFFFFFFFFFF#64 = .fin false (2 ^ 53 - 1) 971 ∧ unpack64 0x8000000000000001#64 = .fin true 1 (-1074) ∧
      1 ≠ 0 := by decide

theorem witness_IeeeSpecialValues :
    (unpack64 0x7FF8000000000000#64 = .nan) ∧
    (magBits 0x7FF0000000000000#64 = infBits ∧ magBits 0xFFF0000000000000#64 = infBits ∧
      sign64 0x7FF0000000000000#64 ≠ sign64 0xFFF0000000000000#64) ∧
    (magBits 0x7FEFFFFFFFFFFFFF#64 < infBits ∧ magBits 0x7FEFFFFFFFFFFFFF#64 ≠ 0) ∧
    (magBits 0x8000000000000000#64 < infBits ∧ magBits 0x8000000000000000#64 = 0) ∧
    (magBits 0x8000000000000001#64 ≠ 0 ∧ sign64 0x8000000000000001#64 = true) := by decide

/-- Timestamps 0.0 and 1.0. -/
theorem witness_SwappingTimestampsNegatesFll :
    let s := withArgs #v[0x3F800000#32, 0#32, 0#32, 0x3F800000#32, 0#32, 0#32, 0#32, 0x3FF00000#32]
    unpack64 (s.arg 5 ++ s.arg 4) = .fin false 0 (-1074) ∧ unpack64 (s.arg 7 ++ s.arg 6) = .fin false (2 ^ 52) (-52) ∧
    realValue false 0 (-1074) ≠ realValue false (2 ^ 52) (-52) ∧
    ∃ r, exec .discFll s = .next { s with res := r } := by
  refine ⟨by decide, by decide, ?_, ⟨_, rfl⟩⟩
  simp [realValue]

theorem witness_DllIgnoresComponentSigns : ∃ t, exec .discDll State.reset = .next t := ⟨_, rfl⟩

/-- Four zeros, and four components that are not all zero. -/
theorem witness_DllStaysBetweenMinusOneAndOne :
    (∀ i : Fin 8, i.val < 4 → unpack32 (State.reset.arg i) = .fin false 0 (-149)) ∧
    (∀ i : Fin 8, i.val < 4 → (State.reset.arg i).toNat % 2 ^ 31 = 0) ∧
    (∀ i : Fin 8, i.val < 4 →
      unpack32 ((withArgs (Vector.replicate 8 0x00000001#32)).arg i) = .fin false 1 (-149)) ∧
    ¬ ∀ i : Fin 8, i.val < 4 → ((withArgs (Vector.replicate 8 0x00000001#32)).arg i).toNat % 2 ^ 31 = 0 := by decide

theorem witness_DiscriminatorNansAreCanonical :
    ∃ t, isDisc .discDll ∧ exec .discDll State.reset = .next t ∧ unpack64 t.res = .nan :=
  ⟨after (exec .discDll State.reset), .inr (.inr (.inr rfl)), rfl, by decide +kernel⟩

/-- Zero, the largest finite magnitude, infinity and the smallest NaN pattern, as the clauses need them. -/
theorem witness_PhaseDiscriminatorCorners :
    (0x80000000#32 : Word).toNat % 2 ^ 31 = 0 ∧ (0x7F800000#32 : Word).toNat % 2 ^ 31 ≤ 0x7F800000 ∧
    ((0x00000001#32 : Word).toNat % 2 ^ 31 ≠ 0 ∧ (0x7F800000#32 : Word).toNat % 2 ^ 31 = 0x7F800000) ∧
    (0xFF7FFFFF#32 : Word).toNat % 2 ^ 31 < 0x7F800000 ∧ 0x7F800000 < (0x7F800001#32 : Word).toNat % 2 ^ 31 := by decide

/-- The last window that fits, and the first that does not (95_test_vectors.md 2.4). -/
theorem witness_PreCorrScoresTheWindow :
    State.reset.build.wf = true ∧ (0xFFB00 % 8 = 0 ∧ 0xFFB00 + 8 * (8 * 20) ≤ 2 ^ State.reset.build.bufAddrBits) ∧
      ¬ (0xFFB08 % 8 = 0 ∧ 0xFFB08 + 8 * (8 * 20) ≤ 2 ^ State.reset.build.bufAddrBits) ∧
      ¬ (0x10004 % 8 = 0 ∧ 0x10004 + 8 * (8 * 20) ≤ 2 ^ State.reset.build.bufAddrBits) := by decide

theorem witness_ScoreIsBoundedWithParity :
    State.reset.build.wf = true ∧ (withArgs #v[0xFFB00#32, 0#32, 0#32, 0#32, 0#32, 0#32, 0#32, 0#32]).srcOk = true := by
  decide

theorem witness_MatchingWindowScoresFull :
    let b := { Build.reference with preSpb := 1 }
    let own := withWindow [one64, minusOne64, minusOne64, minusOne64, one64, minusOne64, one64, one64]
    let opposite := withWindow [minusOne64, one64, one64, one64, minusOne64, one64, minusOne64, minusOne64]
    let mixed := withWindow [0x8000000000000000#64, 0xFFF8000000000000#64, one64, one64, one64, one64, one64, one64]
    (own.build.wf = true ∧ own.srcOk = true ∧ ∀ k : Fin 8, own.buf.symbol own.src k =
      (if pref b k = 1 then 0x3FF0000000000000#64 else 0xBFF0000000000000#64)) ∧
    (opposite.build.wf = true ∧ opposite.srcOk = true ∧ ∀ k : Fin 8, opposite.buf.symbol opposite.src k =
      (if pref b k = 1 then 0xBFF0000000000000#64 else 0x3FF0000000000000#64)) ∧
    (mixed.build.wf = true ∧ mixed.srcOk = true ∧ ∀ k : Fin 8,
      sign64 (mixed.buf.symbol mixed.src k) = false ∨ magBits (mixed.buf.symbol mixed.src k) = 0 ∨
        unpack64 (mixed.buf.symbol mixed.src k) = .nan) := by decide +kernel

theorem witness_ConstantRegistersHoldTheirValues :
    (0x050#21 : Offset) = 0x000#21 ∨ (0x050#21 : Offset) = 0x004#21 ∨ (0x050#21 : Offset) = 0x048#21 ∨
      (0x050#21 : Offset) = 0x04C#21 ∨ (0x050#21 : Offset) = 0x050#21 := by decide

theorem witness_DelayRomReadsTheTable : 0 ≤ 50 ∧ 50 ≤ 50 := by decide

theorem witness_StatusReadsAndClears : 0 < 32 ∧ 31 < 32 ∧ (1 ≤ 1 ∧ 1 ≤ 7) ∧ 1 ≤ 7 ∧ 7 ≤ 7 := by decide

theorem witness_BuildRegistersReportTheBuild :
    State.reset.build.wf = true ∧ smallBuild.build.wf = true := by decide

/-- Unmapped offsets next to mapped ones in two builds, a read-only one, a writable one; and a host address inside the
window and one outside. -/
theorem witness_BadAccessesOnlySetHostErr :
    (∀ o ∈ [0x002, 0x054, 0x0FC, 0x1CC, 0x400, 0x0FFFFC, 0x100002], ¬ mapped State.reset.build o) ∧
    (mapped smallBuild.build 0x101FFC ∧ ¬ mapped smallBuild.build 0x102000) ∧
    (mapped State.reset.build 0x1FFFFC ∧ ¬ readOnly 0x1FFFFC) ∧ (mapped State.reset.build 0x050 ∧ readOnly 0x050) ∧
    (mapped State.reset.build 0x1C8 ∧ readOnly 0x1C8) ∧ (mapped State.reset.build 0x014 ∧ ¬ readOnly 0x014) ∧
    State.reset.status.hostErr = false ∧
    (platBase.extractLsb' 21 11 = platBase.extractLsb' 21 11) ∧
    (~~~platBase).extractLsb' 21 11 ≠ platBase.extractLsb' 21 11 := by
  refine ⟨by unfold mapped; decide, by unfold mapped; decide, by unfold mapped readOnly; decide,
    by unfold mapped readOnly; decide, by unfold mapped readOnly; decide, by unfold mapped readOnly; decide, by decide,
    rfl, ?_⟩
  intro h
  have := congrArg (fun v => v.getLsbD 0) h
  simp at this

/-- BUSY = 1, and an offset for every row of the table. -/
theorem witness_BusyBlocksTheHost :
    busy.status.busy = true ∧ (0x020#21 : Offset).toNat = 0x020 + 4 * (0 : Fin 8).val ∧
    (0x03C#21 : Offset).toNat = 0x020 + 4 * (7 : Fin 8).val ∧
    (0x1FFFFC % 4 = 0 ∧ inBufWindow busy.build 0x1FFFFC) ∧ (0x100000 % 4 = 0 ∧ inBufWindow busy.build 0x100000) ∧
    (0x80000000#32 : Word).getLsbD 31 = true ∧ (0x3#32 : Word).getLsbD 31 = false ∧
    (mapped busy.build 0x008 ∧ 0x008 < 0x00C) ∧ (mapped busy.build 0x040 ∧ 0x040 ≤ 0x040 ∧ 0x040 < 0x400) ∧
    (mapped busy.build 0x01C ∧ readOnly 0x01C) ∧ ¬ mapped busy.build 0x054 := by
  unfold mapped readOnly inBufWindow; decide

theorem witness_BufWindowReadsAndWritesBuf :
    (State.reset.build.wf = true ∧ 0 < 2 ^ State.reset.build.bufAddrBits ∧ 0 % 4 = 0 ∧ State.reset.status.busy = false) ∧
    (busy.build.wf = true ∧ 0xFFFFC < 2 ^ busy.build.bufAddrBits ∧ 0xFFFFC % 4 = 0 ∧ busy.status.busy = true) := by decide

theorem witness_OperandsAreStableWhileBusy : busy.status.busy = true ∧
    ({ busy with host := pseudoSrst } : State).host = .write 0x00C#21 0x80000000#32 :: [] ∧
    (0x80000000#32 : Word).getLsbD 31 = true := by decide

theorem witness_CtrlHoldsTheEnableBits :
    (0x3#32 : Word).getLsbD 31 = false ∧ (0x80000003#32 : Word).getLsbD 31 = true := by decide

theorem witness_ArgRegistersHoldWhatTheHostWrote : State.reset.status.busy = false ∧ busy.status.busy = true ∧
    ∃ t, exec .discFll State.reset = .next t := ⟨by decide, by decide, _, rfl⟩

theorem witness_OneAccessRaisesAtMostOneCondition :
    ((hostWrite 0x014#21 1#32 busy).status.ovr = true ∧ busy.status.ovr = false ∧ busy.status.hostErr = false) ∧
    ¬ mapped busy.build 0x054 := by unfold mapped; decide

/-- DISC_DLL of zeros completes with a NaN; and a soft reset clears a RES that is not 0. -/
theorem witness_ResChangesOnlyOnCompletion :
    (∃ t, step (pending 0x13#32 State.reset.args) = .next t ∧ t.res ≠ (pending 0x13#32 State.reset.args).res) ∧
    ∃ t, step { State.reset with res := 1#64, host := pseudoSrst } = .next t ∧ t.res ≠ 1#64 :=
  ⟨⟨after (step (pending 0x13#32 State.reset.args)), rfl, by decide +kernel⟩,
    ⟨after (step { State.reset with res := 1#64, host := pseudoSrst }), rfl, by decide⟩⟩

/-- ERR_CMD cleared by a write of 1, and by a soft reset. -/
theorem witness_FlagsAreSticky :
    (∃ t, step { State.reset.raise .errCmd with host := [.write 0x010#21 0x20#32] } = .next t ∧
      ({ State.reset.raise .errCmd with host := [.write 0x010#21 0x20#32] } : State).status.has .errCmd = true ∧
      t.status.has .errCmd = false) ∧
    ∃ t, step { State.reset.raise .errCmd with host := pseudoSrst } = .next t ∧ t.status.has .errCmd = false :=
  ⟨⟨after (step { State.reset.raise .errCmd with host := [.write 0x010#21 0x20#32] }), rfl, by decide, by decide⟩,
    ⟨after (step { State.reset.raise .errCmd with host := pseudoSrst }), rfl, by decide⟩⟩

/-- SRST with a GEN_INT pending, whose range is 0..4091, and with nothing pending. -/
theorem witness_SoftResetClearsAndAborts :
    let s := pending 0x01#32 #v[1#32, 0#32, 0#32, 0#32, 0#32, 0#32, 0#32, 0#32]
    (0x80000000#32 : Word).getLsbD 31 = true ∧ s.status.busy = true ∧ s.writeRange.1 ≤ 0 ∧
      4091 < s.writeRange.1 + s.writeRange.2 ∧ s.writeRange.1 + s.writeRange.2 ≤ 4092 ∧
      State.reset.status.busy = false := by decide

theorem witness_WriteRangeBoundsTheCommandsWrites :
    (∃ t, runPending (pending 0x01#32 #v[1#32, 0#32, 4#32, 0#32, 0#32, 0#32, 0#32, 0#32]) = .next t) ∧
    0 < (pending 0x01#32 #v[1#32, 0#32, 4#32, 0#32, 0#32, 0#32, 0#32, 0#32]).writeRange.1 ∧
    (pending 0x02#32 State.reset.args).lastCmd = 0x02#32 ∧ (pending 0x03#32 State.reset.args).lastCmd = 0x03#32 ∧
    (pending 0x04#32 State.reset.args).lastCmd = 0x04#32 ∧ 4 < (pending 0x05#32 State.reset.args).lastCmd.toNat ∧
    (pending 0x00#32 State.reset.args).lastCmd.toNat = 0 :=
  ⟨⟨_, rfl⟩, by decide, by decide, by decide, by decide, by decide, by decide⟩

theorem witness_PowerOnResetState : (turning [.powerOn] busy).turns = .powerOn :: [] := by decide

/-- A host that polls while a command is pending, one that writes ARG when none is, and one that would not be dutiful. -/
theorem witness_DutifulHostSeesNoOverrun :
    (({ busy with host := pseudoWait } : State).dutiful = true ∧ busy.status.ovr = false) ∧
    ({ State.reset with host := [.write 0x020#21 1#32] } : State).dutiful = true ∧
    ({ busy with host := [.write 0x020#21 1#32] } : State).dutiful = false := by decide

theorem witness_HostOperationsAreSingleAccesses :
    ({ busy with host := pseudoClrst } : State).host = .write 0x010#21 0xFE#32 :: [] ∧
    ({ busy with host := pseudoRdres 0 1 } : State).host = .read 0x018#21 0 :: [.read 0x01C#21 1] ∧
    (1 : Nat) ≠ 0 ∧ ({ busy with host := pseudoWait } : State).host = .poll 0x010#21 1#32 0#32 :: [] ∧
    (hostRead 0x010#21 busy).1 &&& 1#32 ≠ 0#32 ∧ (hostRead 0x010#21 State.reset).1 &&& 1#32 = 0#32 := by decide

theorem witness_EveryStepKeepsTheInvariant :
    State.reset.build.wf = true ∧ State.reset.buf.wf ∧ (∀ c ∈ State.reset.buf.cells, c.1 < State.reset.build.bufBytes) ∧
    (State.reset.status.busy = true → State.reset.status.done = false) ∧ State.reset.buf.fill < State.reset.draws ∧
    ∃ t, step State.reset = .next t := ⟨by decide, by decide, by decide, by decide, by decide, _, rfl⟩

end Sys2Proof.Tests
end

section
/-! PROOFS. Registers as the host sees them: one rule for a read and one for a write of a register (R34, R82), the
constant registers (R35, R36, R43 to R45) and ARG (R32). -/

namespace Sys2Proof.Machine

variable {s : State} {off : Offset} {r : Reg}

/-! ### A host access to a register -/

theorem hostRead_reg (h : targetOf s.build off = .reg r) : hostRead off s = (s.regValue r, s) := by
  simp [hostRead, h]

theorem hostWrite_reg (w : Word) (h : targetOf s.build off = .reg r) : hostWrite off w s = s.writeReg r w := by
  simp [hostWrite, h]

/-- The registers a host write can reach (R34): CTRL, STATUS, CMD and ARG. -/
def Reg.writable (r : Reg) : Bool :=
  match r with
  | .ctrl | .status | .cmd | .arg _ => true
  | _ => false

theorem State.writeReg_of_not_writable (w : Word) (hr : r.writable = false) : s.writeReg r w = s.raise .hostErr := by
  cases r
  case ctrl | status | cmd | arg => simp [Reg.writable] at hr
  all_goals rfl

/-- A write to a read-only register is dropped and sets HOST_ERR (R82). -/
theorem hostWrite_of_not_writable (w : Word) (h : targetOf s.build off = .reg r) (hr : r.writable = false) :
    hostWrite off w s = s.raise .hostErr := by
  rw [hostWrite_reg w h, State.writeReg_of_not_writable w hr]

/-! ### ARG (R32) -/

@[simp] theorem State.arg_setArg_same (s : State) (i : Fin 8) (v : Word) : (s.setArg i v).arg i = v := by
  simp [State.arg]

theorem State.arg_setArg_ne (s : State) (v : Word) {i j : Fin 8} (h : j ≠ i) : (s.setArg i v).arg j = s.arg j := by
  simp [State.arg, Fin.val_ne_of_ne h.symm]

theorem targetOf_argOff (b : Build) (i : Fin 8) : targetOf b (argOff i) = .reg (.arg i) := by
  have hoff : (argOff i).toNat = 4 * (i + 8) := by simp only [argOff, BitVec.toNat_ofNat]; omega
  have hreg : regAt (i + 8) = some (.arg i) := by decide +revert
  rw [targetOf_eq_reg, hoff, Nat.mul_div_cancel_left _ (by decide)]
  exact ⟨by omega, by omega, hreg⟩

theorem hostRead_argOff (s : State) (i : Fin 8) : hostRead (argOff i) s = (s.arg i, s) :=
  hostRead_reg (targetOf_argOff s.build i)

theorem hostWrite_argOff_idle (i : Fin 8) (w : Word) (h : s.status.busy = false) :
    hostWrite (argOff i) w s = s.setArg i w := by
  simp [hostWrite_reg w (targetOf_argOff s.build i), State.writeReg, h]

theorem hostWrite_argOff_busy (i : Fin 8) (w : Word) (h : s.status.busy = true) :
    hostWrite (argOff i) w s = s.raise .ovr := by
  simp [hostWrite_reg w (targetOf_argOff s.build i), State.writeReg, h]

/-- What a command can change: STATUS, RES, BUF and the generator's working state with its draw, and no other field. -/
theorem exec_changes_only {i : Instr} {t : State} (h : exec i s = .next t) :
    t = { s with status := t.status, res := t.res, buf := t.buf, gen := t.gen, draws := t.draws } := by
  cases i
  case preCorr =>
    rw [exec_preCorr] at h
    cases h
    split <;> rfl
  all_goals cases h; rfl

theorem exec_args {i : Instr} {t : State} (h : exec i s = .next t) : t.args = s.args := by
  rw [exec_changes_only h]

/-- Settles O49, from one rule each for a read, an idle write and a busy write of ARG[i], and the frame of the
commands. -/
theorem argRegistersHoldWhatTheHostWrote : Obligations.ArgRegistersHoldWhatTheHostWrote := by
  refine ⟨fun s i w => ⟨hostRead_argOff s i, fun idle => ?_, hostWrite_argOff_busy i w⟩, fun _ _ _ => exec_args, ?_⟩
  · have hwrite := hostWrite_argOff_idle i w idle
    refine ⟨hwrite, ?_, fun j hj => ?_⟩
    · calc (hostRead (argOff i) (hostWrite (argOff i) w s)).1
          = (s.setArg i w).arg i := by rw [hwrite, hostRead_argOff]
        _ = w := s.arg_setArg_same i w
    · calc (hostWrite (argOff i) w s).arg j
          = (s.setArg i w).arg j := by rw [hwrite]
        _ = s.arg j := s.arg_setArg_ne w hj
  · intro i
    simp [State.arg, State.reset]

/-! ### The constant registers (R35, R36, R43 to R45) -/

/-- Settles O40: each offset is a register's, which reads as its constant and is not writable. -/
theorem constantRegistersHoldTheirValues : Obligations.ConstantRegistersHoldTheirValues := by
  intro s
  have atId : targetOf s.build 0x000#21 = .reg .id := targetOf_eq_reg.2 ⟨rfl, by decide, rfl⟩
  have atVersion : targetOf s.build 0x004#21 = .reg .version := targetOf_eq_reg.2 ⟨rfl, by decide, rfl⟩
  have atCodeLen : targetOf s.build 0x048#21 = .reg .codeLen := targetOf_eq_reg.2 ⟨rfl, by decide, rfl⟩
  have atChipRate : targetOf s.build 0x04C#21 = .reg .chipRate := targetOf_eq_reg.2 ⟨rfl, by decide, rfl⟩
  have atPrnRanges : targetOf s.build 0x050#21 = .reg .prnRanges := targetOf_eq_reg.2 ⟨rfl, by decide, rfl⟩
  refine ⟨hostRead_reg atId, hostRead_reg atVersion, hostRead_reg atCodeLen, hostRead_reg atChipRate,
    hostRead_reg atPrnRanges, ?_⟩
  rintro o w (rfl | rfl | rfl | rfl | rfl)
  · exact hostWrite_of_not_writable w atId rfl
  · exact hostWrite_of_not_writable w atVersion rfl
  · exact hostWrite_of_not_writable w atCodeLen rfl
  · exact hostWrite_of_not_writable w atChipRate rfl
  · exact hostWrite_of_not_writable w atPrnRanges rfl

end Sys2Proof.Machine
end

section
/-! PROOFS. The address map and BUF as the host sees them: which offsets are bad (R80, R82), the BUF window (R81) and
host addresses outside the window (R82). -/

namespace Sys2Proof.Machine

open Sys2Proof.Claims

variable {s : State} {off : Offset} {r : Reg} {a : Nat}

/-! ### Bad and read-only offsets (R46, R80, R82) -/

/-- The words of the register window at which no register stands (R46). -/
theorem regAt_eq_none {k : Nat} : regAt k = none ↔ (20 < k ∧ k < 64) ∨ 114 < k := by
  unfold regAt
  split
  case h_14 =>
    simp only [imp_false] at *
    split
    · simp; omega
    · split <;> simp <;> omega
  all_goals simp

/-- The word of the register window at which a register stands (R34). -/
def Reg.word (r : Reg) : Nat :=
  match r with
  | .id => 0
  | .version => 1
  | .param => 2
  | .ctrl => 3
  | .status => 4
  | .cmd => 5
  | .resLo => 6
  | .resHi => 7
  | .arg i => 8 + i
  | .prePattern => 16
  | .preCfg => 17
  | .codeLen => 18
  | .chipRate => 19
  | .prnRanges => 20
  | .delayRom k => 64 + k

theorem eq_word_of_regAt {k : Nat} (h : regAt k = some r) : k = r.word := by
  unfold regAt at h
  split at h
  case h_14 =>
    split at h
    · cases h; simp [Reg.word]; omega
    · split at h
      · cases h; simp [Reg.word]; omega
      · cases h
  all_goals cases h; rfl

/-- The read-only offsets are those of the registers that a host write cannot reach (R46). -/
theorem readOnly_iff_not_writable (h : targetOf s.build off = .reg r) : readOnly off.toNat ↔ r.writable = false := by
  obtain ⟨aligned, -, hreg⟩ := targetOf_eq_reg.1 h
  have hoff : off.toNat = 4 * r.word := by rw [← eq_word_of_regAt hreg]; omega
  rw [hoff]
  cases r <;> simp [readOnly, Reg.word, Reg.writable] <;> omega

/-- An access is bad where the claims' address map has nothing (R80, R82). -/
theorem targetOf_eq_bad {b : Build} : targetOf b off = .bad ↔ ¬ mapped b off.toNat := by
  cases h : targetOf b off with
  | reg r =>
    obtain ⟨aligned, -, hreg⟩ := targetOf_eq_reg.1 h
    have hword : regAt (off.toNat / 4) ≠ none := by simp [hreg]
    rw [ne_eq, regAt_eq_none] at hword
    simp only [reduceCtorEq, false_iff, not_not]
    exact ⟨aligned, by omega⟩
  | buf a =>
    obtain ⟨aligned, -, hlow, hhigh, -⟩ := targetOf_eq_buf.1 h
    simp only [reduceCtorEq, false_iff, not_not]
    exact ⟨aligned, .inr (.inr ⟨hlow, hhigh⟩)⟩
  | bad =>
    simp only [true_iff]
    rintro ⟨aligned, hoff⟩
    by_cases hbuf : 0x100000 ≤ off.toNat
    · have hhigh : off.toNat < 0x100000 + b.bufBytes := by unfold Build.bufBytes; omega
      have := targetOf_eq_buf.2 ⟨aligned, by omega, hbuf, hhigh, rfl⟩
      simp [h] at this
    · have hword : regAt (off.toNat / 4) ≠ none := by rw [ne_eq, regAt_eq_none]; omega
      obtain ⟨r, hreg⟩ := Option.ne_none_iff_exists'.1 hword
      have := (targetOf_eq_reg (b := b)).2 ⟨aligned, by omega, hreg⟩
      simp [h] at this

theorem hostRead_bad (h : targetOf s.build off = .bad) : hostRead off s = (0#32, s.raise .hostErr) := by
  simp [hostRead, h]

theorem hostWrite_bad (w : Word) (h : targetOf s.build off = .bad) : hostWrite off w s = s.raise .hostErr := by
  simp [hostWrite, h]

/-! ### The BUF window (R81) -/

theorem hostRead_buf_idle (h : targetOf s.build off = .buf a) (idle : s.status.busy = false) :
    hostRead off s = (BitVec.ofNat 32 (s.buf.memRead a 4), s) := by
  simp [hostRead, h, idle]

theorem hostRead_buf_busy (h : targetOf s.build off = .buf a) (busy : s.status.busy = true) :
    hostRead off s = (0#32, s.raise .ovr) := by
  simp [hostRead, h, busy]

theorem hostWrite_buf_idle (w : Word) (h : targetOf s.build off = .buf a) (idle : s.status.busy = false) :
    hostWrite off w s = { s with buf := s.buf.memWrite a 4 w } := by
  simp [hostWrite, h, idle]

theorem hostWrite_buf_busy (w : Word) (h : targetOf s.build off = .buf a) (busy : s.status.busy = true) :
    hostWrite off w s = s.raise .ovr := by
  simp [hostWrite, h, busy]

/-- MemRead of a word is its four bytes, the last one the most significant (R83, R86). -/
theorem Memory.memRead_word (m : Memory) (a : Nat) :
    BitVec.ofNat 32 (m.memRead a 4) = m.byte (a + 3) ++ m.byte (a + 2) ++ m.byte (a + 1) ++ m.byte a := by
  have hbytes : ∀ j, j < 4 → m.byte (a + j) =
      (m.byte (a + 3) ++ m.byte (a + 2) ++ m.byte (a + 1) ++ m.byte a).extractLsb' (8 * j) 8 := by
    intro j hj
    interval_cases j
    · rw [BitVec.extractLsb'_append_eq_right]; rfl
    · rw [BitVec.extractLsb'_append_eq_of_le (by decide), BitVec.extractLsb'_append_eq_right]
    · rw [BitVec.extractLsb'_append_eq_of_le (by decide), BitVec.extractLsb'_append_eq_of_le (by decide),
        BitVec.extractLsb'_append_eq_right]
    · rw [BitVec.extractLsb'_append_eq_of_le (by decide), BitVec.extractLsb'_append_eq_of_le (by decide),
        BitVec.extractLsb'_append_eq_of_le (by decide), BitVec.extractLsb'_eq_self]
  rw [m.memRead_of_bytes a 4 _ (by decide) hbytes, BitVec.ofNat_toNat, BitVec.setWidth_eq]

/-- Each byte that MemWrite stores (R86). -/
theorem Memory.byte_memWrite_inside {w n j : Nat} (m : Memory) (a : Nat) (v : BitVec w) (h : j < n) :
    (m.memWrite a n v).byte (a + j) = v.extractLsb' (8 * j) 8 := by
  rw [Memory.memWrite, Memory.byte_writeBytes_inside _ _ _ _ (by simpa using h), leBytes_getElem]

/-- BUF byte `a` stands at window offset 0x100000 + a (R80, R81). -/
theorem targetOf_bufOff {b : Build} (legal : b.wf = true) (inside : a < 2 ^ b.bufAddrBits) (aligned : a % 4 = 0) :
    targetOf b (BitVec.ofNat 21 (0x100000 + a)) = .buf a := by
  have hbits : b.bufAddrBits ≤ 20 := by
    simp [Build.wf, Build.bufAddrBitsOk] at legal; omega
  have hlt : a < 2 ^ 20 := inside.trans_le (Nat.pow_le_pow_right (by decide) hbits)
  have hoff : (BitVec.ofNat 21 (0x100000 + a)).toNat = 0x100000 + a := by
    simp only [BitVec.toNat_ofNat]; omega
  rw [targetOf_eq_buf, hoff]
  exact ⟨by omega, by omega, by omega, Nat.add_lt_add_left inside _, by omega⟩

/-- Settles O45, from the four rules of the BUF window. -/
theorem bufWindowReadsAndWritesBuf : Obligations.BufWindowReadsAndWritesBuf := by
  intro s a w legal inside aligned
  have htarget := targetOf_bufOff legal inside aligned
  refine ⟨fun idle => ⟨?_, s.buf.memWrite a 4 w, hostWrite_buf_idle w htarget idle, ?_⟩, fun busy =>
    ⟨hostRead_buf_busy htarget busy, hostWrite_buf_busy w htarget busy⟩⟩
  · rw [hostRead_buf_idle htarget idle, Memory.memRead_word]
  · exact ⟨s.buf.byte_memWrite_inside (j := 0) a w (by decide), s.buf.byte_memWrite_inside a w (by decide),
      s.buf.byte_memWrite_inside a w (by decide), s.buf.byte_memWrite_inside a w (by decide),
      s.buf.byte_memWrite_outside a 4 w⟩

/-! ### HOST_ERR and host addresses (R82) -/

/-- A write to a writable register raises no HOST_ERR (R82). -/
theorem State.writeReg_keeps_hostErr_clear (w : Word) (hr : r.writable = true) (h : s.status.hostErr = false) :
    (s.writeReg r w).status.hostErr = false := by
  cases r
  case ctrl =>
    simp only [State.writeReg]
    split
    · rfl
    · exact h
  case status => simp [State.writeReg, Status.writeOneToClear, h]
  case cmd | arg =>
    simp only [State.writeReg]
    split <;> exact h
  all_goals simp [Reg.writable] at hr

/-- A read of a mapped offset raises no HOST_ERR (R82). -/
theorem hostRead_keeps_hostErr (hmap : mapped s.build off.toNat) :
    (hostRead off s).2.status.hostErr = s.status.hostErr := by
  rcases hostRead_state_cases off s with ⟨hbad, -⟩ | ⟨r, -, hread⟩ | ⟨a, -, -, hread⟩ | ⟨a, -, -, hread⟩
  · exact absurd hmap (targetOf_eq_bad.1 hbad)
  all_goals simp [hread, Status.with]

theorem hostWrite_readOnly (w : Word) (hmap : mapped s.build off.toNat) (hro : readOnly off.toNat) :
    hostWrite off w s = s.raise .hostErr := by
  cases htarget : targetOf s.build off with
  | bad => exact absurd hmap (targetOf_eq_bad.1 htarget)
  | reg r => exact hostWrite_of_not_writable w htarget ((readOnly_iff_not_writable htarget).1 hro)
  | buf a =>
    obtain ⟨-, -, hlow, -⟩ := targetOf_eq_buf.1 htarget
    unfold readOnly at hro; omega

/-- A write to a mapped offset that is not read-only raises no HOST_ERR (R82). -/
theorem hostWrite_keeps_hostErr_clear (w : Word) (hmap : mapped s.build off.toNat) (hro : ¬ readOnly off.toNat)
    (h : s.status.hostErr = false) : (hostWrite off w s).status.hostErr = false := by
  cases htarget : targetOf s.build off with
  | bad => exact absurd hmap (targetOf_eq_bad.1 htarget)
  | reg r =>
    rw [readOnly_iff_not_writable htarget, Bool.not_eq_false] at hro
    rw [hostWrite_reg w htarget]
    exact State.writeReg_keeps_hostErr_clear w hro h
  | buf a =>
    cases hbusy : s.status.busy
    · rw [hostWrite_buf_idle w htarget hbusy]; exact h
    · rw [hostWrite_buf_busy w htarget hbusy]; exact h

/-- The upper bits of a host address inside the window are PLAT_BASE's (R10). -/
theorem platBase_slot : platBase.extractLsb' 21 11 = Config.platSlot :=
  BitVec.extractLsb'_append_eq_left

theorem busOffset_inside {addr : Word} (h : addr.extractLsb' 21 11 = platBase.extractLsb' 21 11) :
    busOffset addr = some (addr.extractLsb' 0 21) :=
  if_pos (h.trans platBase_slot)

theorem busOffset_outside {addr : Word} (h : addr.extractLsb' 21 11 ≠ platBase.extractLsb' 21 11) :
    busOffset addr = none :=
  if_neg (platBase_slot ▸ h)

/-- Settles O43: the target of the offset decides what is bad and what is read-only, and the upper bits of the host
address whether GCORE observes the access at all. -/
theorem badAccessesOnlySetHostErr : Obligations.BadAccessesOnlySetHostErr := by
  refine ⟨fun s off w => ⟨fun hmap => ?_, hostWrite_readOnly w, hostRead_keeps_hostErr,
    hostWrite_keeps_hostErr_clear w⟩, fun s addr w => ⟨fun outside => ?_, fun inside => ?_⟩⟩
  · have hbad := targetOf_eq_bad.2 hmap
    exact ⟨hostRead_bad hbad, hostWrite_bad w hbad⟩
  · simp [busWrite, busRead, busOffset_outside outside]
  · simp [busWrite, busRead, busOffset_inside inside]

end Sys2Proof.Machine
end

section
/-! PROOFS. Encoding: the decoder as the opcode map (R110, R111) and the life cycle of an illegal word (R112). -/

namespace Sys2Proof

/-! ### The decoder and the opcode map (R110, R111) -/

/-- Each opcode is the one row of the map that gives its command. -/
theorem decodeOp_eq_ok {op : Nat} {i : Instr} : decodeOp op = .ok i ↔ op = i.op.toNat := by
  constructor
  · intro h
    unfold decodeOp at h
    split at h
    case h_11 => cases h
    all_goals cases h; rfl
  · rintro rfl
    cases i <;> rfl

/-- A command word is RSVD above OP (R110). -/
theorem toNat_eq_rsvd_op (w : Word) : w.toNat = (cmdRsvd w).toNat * 2 ^ 8 + (cmdOp w).toNat := by
  simp only [cmdRsvd, cmdOp, BitVec.extractLsb'_toNat, Nat.shiftRight_eq_div_pow]
  omega

/-- RSVD has to be 0, so the whole word, and not only OP, is the opcode (R110, R111). -/
theorem decode_eq_ok {w : Word} {i : Instr} : decode w = .ok i ↔ w.toNat = i.op.toNat := by
  have hw := toNat_eq_rsvd_op w
  have hop := i.op.isLt
  unfold decode
  split
  case isTrue hrsvd =>
    rw [decodeOp_eq_ok, hw, hrsvd]
    simp
  case isFalse hrsvd =>
    have hpos : (cmdRsvd w).toNat ≠ 0 := fun h => hrsvd (BitVec.eq_of_toNat_eq h)
    simp only [reduceCtorEq, false_iff]
    omega

/-- Settles O2: each row of the table is the characterization of the decoder at one command. -/
theorem legalWordsAreTheTable : Obligations.LegalWordsAreTheTable := fun _ =>
  ⟨decode_eq_ok, decode_eq_ok, decode_eq_ok, decode_eq_ok, decode_eq_ok, decode_eq_ok, decode_eq_ok, decode_eq_ok,
    decode_eq_ok, decode_eq_ok⟩

/-- Every word but the ten of the table is illegal (R112). -/
theorem exists_decode_eq_error {w : Word}
    (h : w.toNat ∉ [0x00, 0x01, 0x02, 0x03, 0x04, 0x10, 0x11, 0x12, 0x13, 0x20]) : ∃ e, decode w = .error e := by
  cases hd : decode w with
  | error e => exact ⟨e, rfl⟩
  | ok i =>
    rw [decode_eq_ok.1 hd] at h
    exact absurd (by cases i <;> decide) h

end Sys2Proof

namespace Sys2Proof.Machine

/-! ### The life cycle of an illegal word (R112, R261, R262) -/

variable {s : State}

theorem targetOf_cmdOff (b : Build) : targetOf b cmdOff = .reg .cmd := targetOf_eq_reg.2 ⟨rfl, by decide, rfl⟩

/-- A write to CMD while BUSY = 0 is acceptance, whatever the word (R261). -/
theorem hostWrite_cmdOff_idle (w : Word) (idle : s.status.busy = false) : hostWrite cmdOff w s = s.accept w := by
  simp [hostWrite_reg w (targetOf_cmdOff s.build), State.writeReg, idle]

/-- The engine's turn while an illegal word is pending (R112, R262). -/
theorem step_illegal {e : Illegal} {rest : List Turn} (busy : s.status.busy = true)
    (illegal : decode s.lastCmd = .error e) (hturn : s.turns = .engine :: rest) :
    step s = .next (({ s with turns := rest } : State).raise .errCmd).complete := by
  rw [step_turn s hturn, takeTurn, engineTurn, if_pos busy]
  exact runPending_illegal _ illegal

/-- Settles O5: an idle write to CMD accepts any word, and the engine's turn completes an illegal one with ERR_CMD. -/
theorem illegalWordOnlyRaisesErrCmd : Obligations.IllegalWordOnlyRaisesErrCmd := by
  intro s w rest notInTable idle hturn
  obtain ⟨e, illegal⟩ := exists_decode_eq_error notInTable
  have haccept : hostWrite 0x014#21 w s = s.accept w := hostWrite_cmdOff_idle w idle
  rw [haccept]
  exact ⟨rfl, step_illegal (s := s.accept w) rfl illegal hturn⟩

end Sys2Proof.Machine
end

section
/-! PROOFS. Control: acceptance of a command (R261), the engine's step (R262) and NOP (R260). -/

namespace Sys2Proof.Machine

variable {s : State}

/-! ### The engine's turn (R262) -/

/-- The engine's turn while a legal word is pending (R262). -/
theorem step_legal {i : Instr} {t : State} {rest : List Turn} (busy : s.status.busy = true)
    (legal : decode s.lastCmd = .ok i) (hturn : s.turns = .engine :: rest)
    (hexec : exec i { s with turns := rest } = .next t) : step s = .next t.complete := by
  rw [step_turn s hturn, takeTurn, engineTurn, if_pos busy]
  exact runPending_legal _ legal hexec

/-- The engine's step is not enabled while BUSY = 0 (R262). -/
theorem step_engine_idle {rest : List Turn} (idle : s.status.busy = false) (hturn : s.turns = .engine :: rest) :
    step s = .next { s with turns := rest } := by
  have disabled : ¬ s.status.busy = true := by simp [idle]
  rw [step_turn s hturn, takeTurn, engineTurn, if_neg disabled]

/-- Settles O4: the engine's turn in its three cases, a legal word, an illegal word and no pending word. -/
theorem stepRunsThePendingCommand : Obligations.StepRunsThePendingCommand :=
  ⟨fun _ _ _ _ busy legal hturn hexec => step_legal busy legal hturn hexec,
    fun _ _ _ busy illegal hturn => step_illegal busy illegal hturn,
    fun _ _ idle hturn => step_engine_idle idle hturn⟩

/-! ### Acceptance (R261) -/

/-- A write to CMD while BUSY = 1 is dropped, whatever the word (R261, R320). -/
theorem hostWrite_cmdOff_busy (w : Word) (busy : s.status.busy = true) : hostWrite cmdOff w s = s.raise .ovr := by
  simp [hostWrite_reg w (targetOf_cmdOff s.build), State.writeReg, busy]

/-- Settles O6: the write to CMD by the value of BUSY. -/
theorem acceptanceIsOneHostStep : Obligations.AcceptanceIsOneHostStep := fun _ w =>
  ⟨fun idle => hostWrite_cmdOff_idle w idle, fun busy => hostWrite_cmdOff_busy w busy⟩

/-! ### NOP (R260) -/

/-- Word 0 is NOP's row of the opcode map (R111). -/
theorem decode_zero : decode 0x00000000#32 = .ok .nop := decode_eq_ok.2 rfl

/-- The engine's turn while NOP is pending is completion and nothing else (R260). -/
theorem step_nop {rest : List Turn} (busy : s.status.busy = true) (hnop : s.lastCmd = 0x00000000#32)
    (hturn : s.turns = .engine :: rest) : step s = .next ({ s with turns := rest } : State).complete :=
  step_legal busy (hnop ▸ decode_zero) hturn (exec_nop _)

/-- Settles O7: an accepted NOP is pending, the engine's turn on it is completion, and CMD is blocked while BUSY = 1. -/
theorem nopDoesNothingBeyondCompletion : Obligations.NopDoesNothingBeyondCompletion := by
  refine ⟨decode_zero, exec_nop, ?accepted, fun _ _ busy hnop hturn => step_nop busy hnop hturn,
    fun _ busy => hostWrite_cmdOff_busy _ busy⟩
  case accepted =>
    intro s rest idle hturn
    have haccept : hostWrite 0x014#21 0x00000000#32 s = s.accept 0x00000000#32 := hostWrite_cmdOff_idle _ idle
    rw [haccept]
    exact step_nop (s := s.accept 0x00000000#32) rfl rfl hturn

end Sys2Proof.Machine
end

section
/-! PROOFS. Exceptions: the flags the host reads from CTRL and STATUS (R38, R39) and the interrupt output (R280). -/

namespace Sys2Proof.Machine

open Sys2Proof.Claims

/-! ### The bits of CTRL and STATUS as words (R38, R39) -/

theorem getLsbD_flagBit (b : Bool) {i : Nat} (hi : i < 32) (k : Nat) :
    (flagBit b i).getLsbD k = (b && decide (i = k)) := by
  cases b
  case false => simp [flagBit]
  case true =>
    have hbit : (flagBit true i).getLsbD k = (decide (k < 32) && decide (i = k)) := by
      simp only [flagBit, ↓reduceIte, BitVec.getLsbD_ofNat, Nat.testBit_two_pow]
    have inWord : i = k → k < 32 := fun hik => hik ▸ hi
    simpa [hbit] using inWord

/-- Bit `k` of STATUS is its flag of that number, and 0 where there is none (R39). -/
theorem Status.getLsbD_toWord (f : Status) (k : Nat) : f.toWord.getLsbD k = (statusBits f).getD k false := by
  simp only [Status.toWord, BitVec.getLsbD_or, getLsbD_flagBit, Nat.reduceLT]
  match k with
  | 0 | 1 | 2 | 3 | 4 | 5 | 6 | 7 | _ + 8 => simp [statusBits]

/-- Bits 0 and 1 of CTRL are its enables, and every other bit is 0 (R38). -/
theorem Ctrl.getLsbD_toWord (c : Ctrl) (k : Nat) :
    c.toWord.getLsbD k = (c.ieDone && decide (0 = k) || c.ieErr && decide (1 = k)) := by
  simp only [Ctrl.toWord, BitVec.getLsbD_or, getLsbD_flagBit, Nat.reduceLT]

/-! ### CTRL and STATUS as the host reads them -/

theorem targetOf_ctrlOff (b : Build) : targetOf b ctrlOff = .reg .ctrl := targetOf_eq_reg.2 ⟨rfl, by decide, rfl⟩

theorem targetOf_statusOff (b : Build) : targetOf b statusOff = .reg .status :=
  targetOf_eq_reg.2 ⟨rfl, by decide, rfl⟩

theorem hostRead_ctrlOff (s : State) : hostRead ctrlOff s = (s.ctrl.toWord, s) :=
  hostRead_reg (targetOf_ctrlOff s.build)

theorem hostRead_statusOff (s : State) : hostRead statusOff s = (s.status.toWord, s) :=
  hostRead_reg (targetOf_statusOff s.build)

/-! ### IRQ (R280) -/

/-- IRQ read off the words of CTRL and STATUS: each enable is a bit of CTRL and each flag it enables a bit of STATUS,
none of them bit 3, WARN_PRN. -/
theorem State.irq_eq_bits (s : State) :
    s.irq = ((s.ctrl.toWord.getLsbD 0 && s.status.toWord.getLsbD 1) ||
      (s.ctrl.toWord.getLsbD 1 && (s.status.toWord.getLsbD 2 || s.status.toWord.getLsbD 4 ||
        s.status.toWord.getLsbD 5 || s.status.toWord.getLsbD 6 || s.status.toWord.getLsbD 7))) := by
  simp only [State.irq, Status.irqError, Ctrl.getLsbD_toWord, Status.getLsbD_toWord]
  simp [statusBits]

/-- With both enables clear IRQ is 0, whatever STATUS holds. -/
theorem State.irq_of_enables_clear {s : State} (h : s.ctrl = { ieDone := false, ieErr := false }) : s.irq = false := by
  simp [State.irq, h]

/-- Settles O50: the host's reads of CTRL and STATUS are the words IRQ is read off, and every reset clears the
enables. -/
theorem irqFollowsCtrlAndStatus : Obligations.IrqFollowsCtrlAndStatus := by
  refine ⟨fun s => ?reads, State.irq_of_enables_clear rfl, fun s =>
    ⟨State.irq_of_enables_clear s.softReset_ctrl, State.irq_of_enables_clear s.powerOn_ctrl⟩⟩
  case reads =>
    have hctrl : hostRead 0x00C#21 s = (s.ctrl.toWord, s) := hostRead_ctrlOff s
    have hstatus : hostRead 0x010#21 s = (s.status.toWord, s) := hostRead_statusOff s
    rw [hctrl, hstatus]
    exact s.irq_eq_bits

end Sys2Proof.Machine
end

section
/-! PROOFS. Hazards: host accesses while BUSY = 1, row by row (R320), and the reads of CMD and RES (R33, R40). -/

namespace Sys2Proof.Machine

open Sys2Proof.Claims

variable {s : State} {off : Offset} {r : Reg}

/-! ### CMD and RES as the host sees them (R33, R40) -/

theorem targetOf_resLo (b : Build) : targetOf b 0x018#21 = .reg .resLo := targetOf_eq_reg.2 ⟨rfl, by decide, rfl⟩

theorem targetOf_resHi (b : Build) : targetOf b 0x01C#21 = .reg .resHi := targetOf_eq_reg.2 ⟨rfl, by decide, rfl⟩

theorem hostRead_cmdOff (s : State) : hostRead cmdOff s = (s.lastCmd, s) := hostRead_reg (targetOf_cmdOff s.build)

theorem hostRead_resLo (s : State) : hostRead 0x018#21 s = (s.res.extractLsb' 0 32, s) :=
  hostRead_reg (targetOf_resLo s.build)

theorem hostRead_resHi (s : State) : hostRead 0x01C#21 s = (s.res.extractLsb' 32 32, s) :=
  hostRead_reg (targetOf_resHi s.build)

/-! ### Writes to STATUS and CTRL, whatever BUSY is (R38, R39) -/

theorem hostWrite_statusOff (s : State) (w : Word) :
    hostWrite statusOff w s = { s with status := s.status.writeOneToClear w } :=
  hostWrite_reg w (targetOf_statusOff s.build)

theorem hostWrite_ctrlOff_enables {w : Word} (s : State) (h : w.getLsbD 31 = false) :
    hostWrite ctrlOff w s = { s with ctrl := Ctrl.ofWord w } :=
  (hostWrite_reg w (targetOf_ctrlOff s.build)).trans (if_neg (ne_true_of_eq_false h))

theorem hostWrite_ctrlOff_srst {w : Word} (s : State) (h : w.getLsbD 31 = true) :
    hostWrite ctrlOff w s = s.softReset :=
  (hostWrite_reg w (targetOf_ctrlOff s.build)).trans (if_pos h)

/-! ### The targets of the rows (R80, R320) -/

theorem eq_argOff {i : Fin 8} (h : off.toNat = 0x020 + 4 * i.val) : off = argOff i := by
  rw [argOff, ← h, BitVec.ofNat_toNat, BitVec.setWidth_eq]

/-- An aligned offset of the window of BUF addresses a byte of BUF, in every build (R80). -/
theorem targetOf_inBufWindow {b : Build} (aligned : off.toNat % 4 = 0) (h : inBufWindow b off.toNat) :
    targetOf b off = .buf (off.toNat - 0x100000) := by
  obtain ⟨hlow, hhigh⟩ := h
  exact targetOf_eq_buf.2 ⟨aligned, by omega, hlow, hhigh, rfl⟩

/-- The mapped offsets of the register window are those of registers (R34, R80). -/
theorem exists_targetOf_eq_reg {b : Build} (hmap : mapped b off.toNat) (h : off.toNat < 0x400) :
    ∃ r, targetOf b off = .reg r := by
  cases htarget : targetOf b off with
  | reg r => exact ⟨r, rfl⟩
  | buf a =>
    obtain ⟨-, hwindow, -⟩ := targetOf_eq_buf.1 htarget
    omega
  | bad => exact absurd hmap (targetOf_eq_bad.1 htarget)

/-! ### Registers that BUSY does not block (R320) -/

/-- STATUS is the only register that shows a flag. -/
theorem State.regValue_with_status (s : State) (f : Status) (h : r ≠ .status) :
    ({ s with status := f } : State).regValue r = s.regValue r := by
  cases r
  case status => exact absurd rfl h
  all_goals rfl

/-- A read of a register other than STATUS returns what it returns under any flags, and has no side effect. -/
theorem hostRead_reg_with_status (f : Status) (h : targetOf s.build off = .reg r) (hr : r ≠ .status) :
    hostRead off s = ((hostRead off { s with status := f }).1, s) := by
  have hother : hostRead off { s with status := f } =
      (({ s with status := f } : State).regValue r, { s with status := f }) := hostRead_reg h
  rw [hother, s.regValue_with_status f hr, hostRead_reg h]

/-- STATUS stands at offset 0x010 alone (R34). -/
theorem ne_status_of_toNat_ne (h : targetOf s.build off = .reg r) (hoff : off.toNat ≠ 0x010) : r ≠ .status := by
  rintro rfl
  obtain ⟨aligned, -, hreg⟩ := targetOf_eq_reg.1 h
  have hword : off.toNat / 4 = 4 := eq_word_of_regAt hreg
  omega

/-- Settles O44: the target of each row's offset decides the access, and BUSY blocks CMD, ARG and BUF alone. -/
theorem busyBlocksTheHost : Obligations.BusyBlocksTheHost := by
  refine ⟨fun s w => ⟨hostRead_cmdOff s, hostRead_resLo s, hostRead_resHi s,
    hostWrite_of_not_writable w (targetOf_resLo s.build) rfl,
    hostWrite_of_not_writable w (targetOf_resHi s.build) rfl⟩, fun s off w busy =>
    ⟨?cmd, ?arg, ?buf, ?resLo, ?resHi, ?status, ?ctrl, ?otherRead, hostWrite_readOnly w, ?bad⟩⟩
  case cmd =>
    rintro rfl
    exact ⟨hostWrite_cmdOff_busy w busy, hostRead_cmdOff s⟩
  case arg =>
    intro i hoff
    rw [eq_argOff hoff]
    exact ⟨hostWrite_argOff_busy i w busy, hostRead_argOff s i⟩
  case buf =>
    intro aligned inWindow
    have htarget := targetOf_inBufWindow aligned inWindow
    exact ⟨hostWrite_buf_busy w htarget busy, hostRead_buf_busy htarget busy⟩
  case resLo =>
    rintro rfl
    exact hostRead_resLo s
  case resHi =>
    rintro rfl
    exact hostRead_resHi s
  case status =>
    rintro rfl
    exact ⟨hostRead_statusOff s, hostWrite_statusOff s w⟩
  case ctrl =>
    rintro rfl
    exact ⟨hostRead_ctrlOff s, hostWrite_ctrlOff_enables s, hostWrite_ctrlOff_srst s⟩
  case otherRead =>
    intro hmap hoff
    obtain ⟨r, htarget⟩ := exists_targetOf_eq_reg hmap (by omega)
    exact hostRead_reg_with_status _ htarget (ne_status_of_toNat_ne htarget (by omega))
  case bad =>
    intro unmapped
    have hbad := targetOf_eq_bad.2 unmapped
    exact ⟨hostWrite_bad w hbad, hostRead_bad hbad⟩

end Sys2Proof.Machine
end

section
/-! PROOFS. What a command does to BUF, RES and STATUS (R84, R149, R183, R241, R264, R312), and the invariant: every
step keeps it (R39, R47, R261, R262). -/

namespace Sys2Proof.Machine

open Sys2Proof.Claims

variable {s t : State} {i : Instr}

/-! ### The flags a command raises (R149, R183, R241, R281) -/

/-- The conditions that the two checks of a generation command raise (R149, R183). -/
def State.checksRaise (s : State) (size n : Nat) (c : Condition) : Bool :=
  (!s.prnOk && decide (Condition.errPrn = c)) ||
    ((s.prnOk && !prnListed s.prn) && decide (Condition.warnPrn = c)) ||
    (!s.dstOk size n && decide (Condition.errAddr = c))

/-- The conditions that command `i` raises. -/
def State.commandRaises (s : State) (i : Instr) (c : Condition) : Bool :=
  match i with
  | .genInt => s.checksRaise 4 1023 c
  | .genReal => s.checksRaise 4 1023 c
  | .genCplx => s.checksRaise 8 1023 c
  | .genResamp => s.checksRaise 8 s.samples c
  | .preCorr => !s.srcOk && decide (Condition.errAddr = c)
  | _ => false

theorem genFlags_has_checks (s : State) (size n : Nat) (c : Condition) :
    (s.genFlags size n).status.has c = (s.status.has c || s.checksRaise size n c) := by
  simp only [State.genFlags_has, State.checksRaise, Bool.or_assoc]

/-- A command sets the flags of the conditions it raises and no other flag of a condition (R272, R281). -/
theorem exec_status_has (h : exec i s = .next t) (c : Condition) :
    t.status.has c = (s.status.has c || s.commandRaises i c) := by
  cases i
  case genInt | genReal | genCplx | genResamp => cases h; exact genFlags_has_checks s _ _ c
  case preCorr =>
    rw [exec_preCorr] at h
    cases h
    cases hok : s.srcOk <;> simp [State.commandRaises, hok, Status.with_has]
  all_goals cases h; simp [State.commandRaises]

/-- A command leaves BUSY and DONE to its completion (R262). -/
theorem exec_status_busy_done (h : exec i s = .next t) :
    t.status.busy = s.status.busy ∧ t.status.done = s.status.done := by
  cases i
  case genInt | genReal | genCplx | genResamp => cases h; simp [genCommon, resampled]
  case preCorr =>
    rw [exec_preCorr] at h
    cases h
    split <;> simp
  all_goals cases h; exact ⟨rfl, rfl⟩

/-- No command raises a condition of the host's or of an illegal word's (R270). -/
theorem State.commandRaises_foreign (s : State) (i : Instr) :
    s.commandRaises i .errCmd = false ∧ s.commandRaises i .ovr = false ∧ s.commandRaises i .hostErr = false := by
  cases i <;> simp [State.commandRaises, State.checksRaise]

/-! ### The frame of a command (R32, R114, R272) -/

/-- A command keeps what R114 and R272 say it keeps. -/
theorem exec_frame (h : exec i s = .next t) : commandFrame s t := by
  have hsame := exec_changes_only h
  obtain ⟨hbusy, hdone⟩ := exec_status_busy_done h
  obtain ⟨hcmd, hovr, hhost⟩ := s.commandRaises_foreign i
  have hflag : ∀ c, s.commandRaises i c = false → t.status.has c = s.status.has c := fun c hc => by
    rw [exec_status_has h, hc, Bool.or_false]
  refine ⟨?_, ?_, ?_, ?_, ?_, ?_, ?_, hbusy, hdone, hflag .errCmd hcmd, hflag .ovr hovr, hflag .hostErr hhost⟩
  all_goals rw [hsame]

/-- Settles O10: the frame of every command, and a flag only ever joined by others. -/
theorem commandsKeepTheirFrame : Obligations.CommandsKeepTheirFrame := fun i s t h =>
  ⟨exec_frame h, fun c hc => by simp [exec_status_has h, hc]⟩

/-! ### The bytes a command writes (R149, R183, R312) -/

/-- `t` has the BUF of `s`, or that BUF with bytes written over the whole write range of the pending command. -/
def State.writesItsRange (s t : State) : Prop :=
  t.buf = s.buf ∨ ∃ bs : List Byte, bs.length = s.writeRange.2 ∧ t.buf = s.buf.writeBytes s.writeRange.1 bs

/-- A waveform is written over the whole write range where its checks pass. -/
theorem State.writesItsRange_of_waveform {ok : Bool} {bs : List Byte}
    (hbuf : t.buf = if ok then s.buf.writeBytes s.dst bs else s.buf)
    (hrange : ok = true → s.writeRange = (s.dst, bs.length)) : s.writesItsRange t := by
  cases ok
  · exact .inl hbuf
  · exact .inr ⟨bs, by rw [hrange rfl], by rw [hrange rfl]; exact hbuf⟩

/-- A generation command writes its write range, and a command of another kind leaves BUF as it was (R312). -/
theorem exec_writesItsRange (hd : decode s.lastCmd = .ok i) (h : exec i s = .next t) : s.writesItsRange t := by
  cases i
  case genInt | genReal | genCplx =>
    cases h
    refine State.writesItsRange_of_waveform (genCommon_buf _ _) fun hok => ?_
    simp only [State.writeRange, hd, elementBytes_length]
    exact if_pos hok
  case genResamp =>
    cases h
    refine State.writesItsRange_of_waveform (resampled_buf _) fun hok => ?_
    simp only [State.writeRange, hd, elementBytes_length, Nat.mul_comm 8]
    exact if_pos (Bool.and_eq_true_iff.1 hok).1
  case preCorr =>
    rw [exec_preCorr] at h
    cases h
    left; split <;> rfl
  all_goals cases h; exact .inl rfl

/-- The engine's step writes inside the write range, or leaves BUF as it was (R262, R312). -/
theorem runPending_writesItsRange (h : runPending s = .next t) : s.writesItsRange t := by
  rcases runPending_cases s h with ⟨i, u, hd, he, rfl⟩ | ⟨e, -, rfl⟩
  · exact exec_writesItsRange (t := u) hd he
  · exact .inl rfl

/-- The write range lies inside BUF, because it is empty unless the range check passes (R84, R312). -/
theorem State.writeRange_inside (s : State) :
    s.writeRange.1 + s.writeRange.2 ≤ s.build.bufBytes ∨ s.writeRange.2 = 0 := by
  have checked : ∀ (b : Bool) (size n len : Nat), len = n * size →
      (if b && s.dstOk size n then (s.dst, len) else (0, 0)).1 + (if b && s.dstOk size n then (s.dst, len) else (0, 0)).2
          ≤ s.build.bufBytes ∨
        (if b && s.dstOk size n then (s.dst, len) else ((0, 0) : Nat × Nat)).2 = 0 := by
    intro b size n len hlen
    split
    · rename_i hok
      rcases (s.dstOk_iff size n).1 (Bool.and_eq_true_iff.1 hok).2 with rfl | ⟨-, hin⟩
      · exact .inr (by simpa using hlen)
      · exact .inl (hlen ▸ hin)
    · exact .inr rfl
  unfold State.writeRange
  split
  case h_1 | h_2 | h_3 => exact checked _ _ _ _ rfl
  case h_4 => exact checked _ _ _ _ (Nat.mul_comm _ _)
  all_goals exact .inr rfl

/-! ### The invariant (R39, R47, R84, R261, R262) -/

/-- A step that leaves BUF alone and sets no DONE beside BUSY keeps the invariant. -/
theorem State.Inv.of_same_buf (h : s.Inv) (hbuild : t.build = s.build) (hbuf : t.buf = s.buf)
    (hdraws : s.draws ≤ t.draws) (hstatus : t.status.busy = true → t.status.done = false) : t.Inv where
  build_legal := hbuild ▸ h.build_legal
  buf_canonical := hbuf ▸ h.buf_canonical
  buf_inside := by rw [hbuf, hbuild]; exact h.buf_inside
  busy_not_done := hstatus
  draws_fresh := by rw [hbuf]; exact h.draws_fresh.trans_le hdraws

/-- So does a step that writes bytes inside BUF. -/
theorem State.Inv.of_write {a : Nat} {bs : List Byte} (h : s.Inv) (hbuild : t.build = s.build)
    (hbuf : t.buf = s.buf.writeBytes a bs) (hin : a + bs.length ≤ s.build.bufBytes ∨ bs = [])
    (hdraws : s.draws ≤ t.draws) (hstatus : t.status.busy = true → t.status.done = false) : t.Inv where
  build_legal := hbuild ▸ h.build_legal
  buf_canonical := hbuf ▸ s.buf.writeBytes_wf a bs h.buf_canonical
  buf_inside := by rw [hbuf, hbuild]; exact s.buf.writeBytes_inside a bs _ h.buf_inside hin
  busy_not_done := hstatus
  draws_fresh := by rw [hbuf]; exact h.draws_fresh.trans_le hdraws

theorem exec_draws_le (h : exec i s = .next t) : s.draws ≤ t.draws := by
  cases i
  case genInt | genReal | genCplx | genResamp => cases h; exact Nat.le_succ _
  case preCorr =>
    rw [exec_preCorr] at h
    cases h
    split <;> exact le_rfl
  all_goals cases h; exact le_rfl

/-- What completion needs beside BUF: the build is kept, no draw is taken back, and BUSY is 0. -/
theorem runPending_build_draws_busy (h : runPending s = .next t) :
    t.build = s.build ∧ s.draws ≤ t.draws ∧ t.status.busy = false := by
  rcases runPending_cases s h with ⟨i, u, -, he, rfl⟩ | ⟨e, -, rfl⟩
  · exact ⟨(exec_frame he).1, exec_draws_le (t := u) he, rfl⟩
  · exact ⟨rfl, le_rfl, rfl⟩

theorem runPending_keeps_inv (h : s.Inv) (hrun : runPending s = .next t) : t.Inv := by
  obtain ⟨hbuild, hdraws, hidle⟩ := runPending_build_draws_busy hrun
  have hstatus : t.status.busy = true → t.status.done = false := by simp [hidle]
  rcases runPending_writesItsRange hrun with hbuf | ⟨bs, hlen, hbuf⟩
  · exact h.of_same_buf hbuild hbuf hdraws hstatus
  · refine h.of_write hbuild hbuf ?_ hdraws hstatus
    rw [← List.length_eq_zero_iff, hlen]
    exact s.writeRange_inside

theorem softReset_keeps_inv (h : s.Inv) : s.softReset.Inv := by
  have hstatus : s.softReset.status.busy = true → s.softReset.status.done = false := by simp
  cases hbusy : s.status.busy
  · exact h.of_same_buf rfl (by simp [hbusy]) (Nat.le_succ _) hstatus
  · refine h.of_write (a := s.writeRange.1) (bs := freeBytes s.draws s.writeRange.1 s.writeRange.2) rfl
      (by simp [hbusy, State.abortedBuf]) ?_ (Nat.le_succ _) hstatus
    simpa [← List.length_eq_zero_iff, freeBytes] using s.writeRange_inside

theorem powerOn_keeps_inv (h : s.Inv) : s.powerOn.Inv where
  build_legal := h.build_legal
  buf_canonical := List.Pairwise.nil
  buf_inside := by simp
  busy_not_done := by simp
  draws_fresh := Nat.lt_succ_self _

theorem raise_keeps_inv (h : s.Inv) (c : Condition) : (s.raise c).Inv :=
  h.of_same_buf rfl rfl le_rfl (by simpa using h.busy_not_done)

/-- An aligned word of the BUF window lies inside BUF: its size is a multiple of 4 (R10, R80). -/
theorem word_inside_of_targetOf_eq_buf {b : Build} {off : Offset} {a : Nat} (legal : b.wf = true)
    (h : targetOf b off = .buf a) : a + 4 ≤ b.bufBytes := by
  obtain ⟨aligned, -, hlow, hhigh, ha⟩ := targetOf_eq_buf.1 h
  have hbits : 2 ≤ b.bufAddrBits := by
    simp [Build.wf, Build.bufAddrBitsOk] at legal; omega
  obtain ⟨k, hk⟩ : 2 ^ 2 ∣ 2 ^ b.bufAddrBits := Nat.pow_dvd_pow 2 hbits
  simp only [Build.bufBytes, hk] at hhigh ⊢
  omega

theorem hostWrite_keeps_inv (off : Offset) (w : Word) (h : s.Inv) : (hostWrite off w s).Inv := by
  rcases hostWrite_cases off w s with hw | ⟨-, hw⟩ | ⟨-, -, hw⟩ | ⟨-, -, hw⟩ | ⟨-, hw⟩ | ⟨-, -, hw⟩ | ⟨i, -, -, hw⟩ |
    ⟨a, htarget, -, hw⟩ <;> rw [hw]
  · exact raise_keeps_inv h _
  · exact raise_keeps_inv h _
  · exact softReset_keeps_inv h
  · exact h.of_same_buf rfl rfl le_rfl h.busy_not_done
  · exact h.of_same_buf rfl rfl le_rfl (s.status.writeOneToClear_busy_not_done w h.busy_not_done)
  · exact h.of_same_buf rfl rfl le_rfl (fun _ => rfl)
  · exact h.of_same_buf rfl rfl le_rfl h.busy_not_done
  · refine h.of_write rfl rfl (.inl ?_) le_rfl h.busy_not_done
    rw [leBytes_length]
    exact word_inside_of_targetOf_eq_buf h.build_legal htarget

theorem hostRead_keeps_inv (off : Offset) (h : s.Inv) : (hostRead off s).2.Inv := by
  rcases hostRead_state_cases off s with ⟨-, hr⟩ | ⟨r, -, hr⟩ | ⟨a, -, -, hr⟩ | ⟨a, -, -, hr⟩ <;> rw [hr]
  · exact raise_keeps_inv h _
  · exact h
  · exact raise_keeps_inv h _
  · exact h

theorem hostStep_keeps_inv (h : s.Inv) : s.hostStep.Inv := by
  rcases s.hostStep_cases with hs | ⟨off, w, rest, -, hs⟩ | ⟨off, rest, reads, hs⟩ <;> rw [hs]
  · exact h
  · have hw := hostWrite_keeps_inv off w h
    exact hw.of_same_buf rfl rfl le_rfl hw.busy_not_done
  · have hr := hostRead_keeps_inv off h
    exact hr.of_same_buf rfl rfl le_rfl hr.busy_not_done

/-- Settles O60: the host's transaction, both resets, an idle engine turn and the engine's step each keep the
invariant. -/
theorem everyStepKeepsTheInvariant : Obligations.EveryStepKeepsTheInvariant := by
  intro s t hs hstep
  obtain ⟨u, hu, hcase⟩ := step_cases s hstep
  have hinv : u.Inv := by
    rcases hu with rfl | ⟨x, rest, -, rfl⟩
    · exact hs
    · exact hs.of_same_buf rfl rfl le_rfl hs.busy_not_done
  rcases hcase with rfl | rfl | ⟨-, rfl⟩ | ⟨-, hrun⟩
  · exact hostStep_keeps_inv hinv
  · exact powerOn_keeps_inv hinv
  · exact hinv
  · exact runPending_keeps_inv hinv hrun

/-- Settles O59: nothing is listed, nothing is pending, and the first draw is number 1. -/
theorem invariantAtReset : Obligations.InvariantAtReset where
  build_legal := by decide
  buf_canonical := List.Pairwise.nil
  buf_inside := by simp [State.reset]
  busy_not_done := fun _ => rfl
  draws_fresh := Nat.zero_lt_one

end Sys2Proof.Machine
end

section
/-! PROOFS. Encoding and the registers of the build as the host reads them (R37, R41, R42, R50, R110, R111). -/

namespace Sys2Proof

/-- Bits one above the other, as a number. -/
theorem toNat_append_eq_add {m n : Nat} (x : BitVec m) (y : BitVec n) :
    (x ++ y).toNat = x.toNat * 2 ^ n + y.toNat := by
  rw [BitVec.toNat_append, ← Nat.shiftLeft_add_eq_or_of_lt y.isLt, Nat.shiftLeft_eq]

/-! ### The decoder (R110, R111) -/

/-- Settles O1: each word of the table is its row, and the three illegal words are evaluated. -/
theorem tableWordsDecode : Obligations.TableWordsDecode :=
  ⟨decode_eq_ok.2 rfl, decode_eq_ok.2 rfl, decode_eq_ok.2 rfl, decode_eq_ok.2 rfl, decode_eq_ok.2 rfl,
    decode_eq_ok.2 rfl, decode_eq_ok.2 rfl, decode_eq_ok.2 rfl, decode_eq_ok.2 rfl, decode_eq_ok.2 rfl, rfl, rfl, rfl⟩

theorem toNat_encode (i : Instr) : (encode i).toNat = i.op.toNat := by
  have happend := toNat_append_eq_add 0#24 i.op
  rwa [BitVec.toNat_zero, Nat.zero_mul, Nat.zero_add] at happend

theorem decode_encode (i : Instr) : decode (encode i) = .ok i := decode_eq_ok.2 (toNat_encode i)

/-- A word read through the table's numbering is the word (R110). -/
theorem decodeTableWord_toNat {w : Word} {i : Instr} (h : decode w = .ok i) : decodeTableWord 32 w.toNat = some i := by
  have hmod : w.toNat % 2 ^ 32 = w.toNat := Nat.mod_eq_of_lt w.isLt
  simp only [decodeTableWord, hmod, if_pos w.isLt, BitVec.ofNat_toNat, BitVec.setWidth_eq, h]

/-- Settles O3: an encoded command is the word of its opcode. -/
theorem decodeOfEncode : Obligations.DecodeOfEncode := fun i _ =>
  ⟨decode_encode i, decodeTableWord_toNat (decode_encode i)⟩

/-- The legal values of R10. -/
theorem Build.wf_iff (b : Build) : b.wf = true ↔
    (13 ≤ b.bufAddrBits ∧ b.bufAddrBits ≤ 20) ∧ (1 ≤ b.preNbits ∧ b.preNbits ≤ 32) ∧ 1 ≤ b.preSpb ∧ b.preSpb ≤ 255 := by
  simp [Build.wf, Build.bufAddrBitsOk, Build.preNbitsOk, Build.preSpbOk, and_assoc]

/-- PRE_LEN fits its 16 bits (R10, R42). -/
theorem Build.preLen_lt {b : Build} (legal : b.wf = true) : b.preLen < 2 ^ 13 := by
  obtain ⟨-, ⟨-, hbits⟩, -, hspb⟩ := b.wf_iff.1 legal
  exact (Nat.mul_le_mul hbits hspb).trans_lt (by decide)

end Sys2Proof

namespace Sys2Proof.Machine

variable {b : Build} {s : State}

/-! ### The registers of the build (R37, R41, R42) -/

theorem toNat_paramWord (legal : b.wf = true) : (paramWord b).toNat = 51 * 2 ^ 8 + b.bufAddrBits := by
  obtain ⟨⟨-, hbits⟩, -⟩ := b.wf_iff.1 legal
  simp only [paramWord, toNat_append_eq_add, BitVec.toNat_ofNat]
  omega

theorem toNat_preCfgWord (legal : b.wf = true) :
    (preCfgWord b).toNat = b.preLen * 2 ^ 16 + b.preSpb * 2 ^ 8 + b.preNbits := by
  obtain ⟨-, ⟨-, hbits⟩, -, hspb⟩ := b.wf_iff.1 legal
  have hlen := Build.preLen_lt legal
  simp only [preCfgWord, toNat_append_eq_add, BitVec.toNat_ofNat]
  omega

/-- PRE_PATTERN shows the low PRE_NBITS bits of the parameter and 0 above them (R41; log 20). -/
theorem getLsbD_prePatternWord (b : Build) (hbits : b.preNbits ≤ 32) (k : Nat) :
    (prePatternWord b).getLsbD k = (b.prePattern.getLsbD k && decide (k < b.preNbits)) := by
  simp only [prePatternWord, BitVec.getLsbD_and, BitVec.getLsbD_ofNat, Nat.testBit_two_pow_sub_one]
  have inWord : k < b.preNbits → k < 32 := fun hk => hk.trans_le hbits
  by_cases hk : k < b.preNbits
  · simp [hk, inWord hk]
  · simp [hk]

/-- Settles O41: each register of the build is one number, read field by field, and none is writable. -/
theorem buildRegistersReportTheBuild : Obligations.BuildRegistersReportTheBuild := by
  intro s legal
  obtain ⟨⟨-, haddr⟩, ⟨-, hbits⟩, -, hspb⟩ := s.build.wf_iff.1 legal
  have atParam : targetOf s.build 0x008#21 = .reg .param := targetOf_eq_reg.2 ⟨rfl, by decide, rfl⟩
  have atPattern : targetOf s.build 0x040#21 = .reg .prePattern := targetOf_eq_reg.2 ⟨rfl, by decide, rfl⟩
  have atCfg : targetOf s.build 0x044#21 = .reg .preCfg := targetOf_eq_reg.2 ⟨rfl, by decide, rfl⟩
  refine ⟨⟨_, hostRead_reg atParam, ?_⟩, ⟨_, hostRead_reg atPattern, fun k hk => ?_, fun k hk => ?_⟩,
    ⟨_, hostRead_reg atCfg, ?_⟩, ?_⟩
  · rw [State.regValue, toNat_paramWord legal]
    omega
  · rw [State.regValue, getLsbD_prePatternWord _ hbits, decide_eq_true hk, Bool.and_true]
  · rw [State.regValue, getLsbD_prePatternWord _ hbits, decide_eq_false hk.not_gt, Bool.and_false]
  · rw [State.regValue, toNat_preCfgWord legal]
    have hlen : s.build.preLen = s.build.preNbits * s.build.preSpb := rfl
    omega
  · rintro o w (rfl | rfl | rfl)
    · exact hostWrite_of_not_writable w atParam rfl
    · exact hostWrite_of_not_writable w atPattern rfl
    · exact hostWrite_of_not_writable w atCfg rfl

/-! ### DELAY_ROM (R50) -/

theorem targetOf_delayRom (b : Build) (k : Fin 51) :
    targetOf b (BitVec.ofNat 21 (0x100 + 4 * k)) = .reg (.delayRom k) := by
  have hoff : (BitVec.ofNat 21 (0x100 + 4 * k)).toNat = 4 * (k + 64) := by
    simp only [BitVec.toNat_ofNat]; omega
  have hreg : regAt (k + 64) = some (.delayRom k) := by decide +revert
  rw [targetOf_eq_reg, hoff, Nat.mul_div_cancel_left _ (by decide)]
  exact ⟨by omega, by omega, hreg⟩

theorem hostRead_delayRom (s : State) (k : Fin 51) :
    hostRead (BitVec.ofNat 21 (0x100 + 4 * k)) s = (BitVec.ofNat 32 (delayRom k), s) :=
  hostRead_reg (targetOf_delayRom s.build k)

theorem delayRom_bounds : ∀ k : Fin 51, 1 ≤ delayRom k ∧ delayRom k ≤ 1022 := by decide

/-- Settles O42: entry k stands at offset 0x100 + 4k, in a register that is not writable. -/
theorem delayRomReadsTheTable : Obligations.DelayRomReadsTheTable := by
  intro s
  constructor
  · have hread : ∀ k ∈ List.range 51, (hostRead (BitVec.ofNat 21 (0x100 + 4 * k)) s).1.toNat = delayRom k := by
      intro k hk
      obtain ⟨-, hmax⟩ := delayRom_bounds ⟨k, List.mem_range.1 hk⟩
      simp only [hostRead_delayRom s ⟨k, List.mem_range.1 hk⟩, BitVec.toNat_ofNat] at hmax ⊢
      omega
    rw [List.map_congr_left hread]
    rfl
  · intro k hk
    have hlt : k < 51 := by omega
    obtain ⟨hmin, hmax⟩ := delayRom_bounds ⟨k, hlt⟩
    exact ⟨by rw [hostRead_delayRom s ⟨k, hlt⟩], hmin, hmax,
      fun w => hostWrite_of_not_writable w (targetOf_delayRom s.build ⟨k, hlt⟩) rfl⟩

end Sys2Proof.Machine
end

section
/-! PROOFS. One host transaction and one step: what they leave alone, which flags they set and clear, and the resets
(R33, R38, R39, R90, R119, R272, R281, R310, R311, R321). -/

namespace Sys2Proof.Machine

open Sys2Proof.Claims

variable {s t : State} {off : Offset} {w : Word}

/-! ### STATUS and CTRL (R38, R39) -/

/-- The bit of STATUS in which a condition's flag stands (R39, R270). -/
def Condition.bit (c : Condition) : Nat :=
  match c with
  | .errPrn => 2
  | .warnPrn => 3
  | .errAddr => 4
  | .errCmd => 5
  | .ovr => 6
  | .hostErr => 7

/-- A write to STATUS clears the flags whose bits are written as 1 (R39). -/
theorem Status.writeOneToClear_has (f : Status) (w : Word) (c : Condition) :
    (f.writeOneToClear w).has c = (f.has c && !w.getLsbD c.bit) := by
  cases c <;> rfl

/-- Settles O47: the bits of STATUS as a word, and each W1C bit of the written word in turn. -/
theorem statusReadsAndClears : Obligations.StatusReadsAndClears := by
  intro s w
  refine ⟨⟨_, hostRead_statusOff s, fun k _ => s.status.getLsbD_toWord k⟩,
    ⟨_, hostWrite_statusOff s w, rfl, fun k hmin hmax => ?_⟩⟩
  interval_cases k <;> rfl

theorem Ctrl.toWord_clear : ({ ieDone := false, ieErr := false } : Ctrl).toWord = 0#32 := by decide

/-- Settles O48, from the bits of CTRL as a word and the two kinds of write to CTRL. -/
theorem ctrlHoldsTheEnableBits : Obligations.CtrlHoldsTheEnableBits := by
  intro s w
  refine ⟨⟨_, hostRead_ctrlOff s, ?_, ?_, fun k hk => ?_⟩, hostWrite_ctrlOff_enables s, fun hsrst => ?_⟩
  · rw [Ctrl.getLsbD_toWord]; simp
  · rw [Ctrl.getLsbD_toWord]; simp
  · rw [Ctrl.getLsbD_toWord, decide_eq_false (by omega), decide_eq_false (by omega), Bool.and_false, Bool.and_false,
      Bool.or_false]
  · have hwrite : hostWrite 0x00C#21 w s = s.softReset := hostWrite_ctrlOff_srst s hsrst
    have hread : hostRead 0x00C#21 s.softReset = (0#32, s.softReset) := by
      rw [← Ctrl.toWord_clear]; exact hostRead_ctrlOff s.softReset
    exact ⟨hwrite, by rw [hwrite, hread]⟩

/-! ### The target decides the offset (R34) -/

theorem toNat_of_targetOf_eq_reg {b : Build} {r : Reg} (h : targetOf b off = .reg r) : off.toNat = 4 * r.word := by
  obtain ⟨aligned, -, hreg⟩ := targetOf_eq_reg.1 h
  rw [← eq_word_of_regAt hreg]
  omega

theorem eq_ctrlOff {b : Build} (h : targetOf b off = .reg .ctrl) : off = ctrlOff :=
  BitVec.eq_of_toNat_eq (toNat_of_targetOf_eq_reg h)

theorem eq_statusOff {b : Build} (h : targetOf b off = .reg .status) : off = statusOff :=
  BitVec.eq_of_toNat_eq (toNat_of_targetOf_eq_reg h)

/-! ### One access: what it leaves alone (R33, R90) -/

/-- `t` has the operands, BUF, RES and the pending command of `s`, in the same build (R90). -/
def State.sameOperands (s t : State) : Prop :=
  t.args = s.args ∧ t.buf = s.buf ∧ t.res = s.res ∧ t.lastCmd = s.lastCmd ∧ t.build = s.build ∧
    t.status.busy = s.status.busy

/-- While a command is pending a write changes no operand, short of SRST (R90, R320). -/
theorem hostWrite_busy_sameOperands (busy : s.status.busy = true) :
    s.sameOperands (hostWrite off w s) ∨
      (off = ctrlOff ∧ w.getLsbD 31 = true ∧ hostWrite off w s = s.softReset) := by
  rcases hostWrite_cases off w s with hw | ⟨-, hw⟩ | ⟨htarget, hsrst, hw⟩ | ⟨-, -, hw⟩ | ⟨-, hw⟩ | ⟨-, idle, -⟩ |
    ⟨i, -, idle, -⟩ | ⟨a, -, idle, -⟩
  · exact .inl (by rw [hw]; exact ⟨rfl, rfl, rfl, rfl, rfl, by simp⟩)
  · exact .inl (by rw [hw]; exact ⟨rfl, rfl, rfl, rfl, rfl, by simp⟩)
  · exact .inr ⟨eq_ctrlOff htarget, hsrst, hw⟩
  · exact .inl (by rw [hw]; exact ⟨rfl, rfl, rfl, rfl, rfl, rfl⟩)
  · exact .inl (by rw [hw]; exact ⟨rfl, rfl, rfl, rfl, rfl, rfl⟩)
  all_goals simp [busy] at idle

/-- A read changes no operand (R81, R82). -/
theorem hostRead_sameOperands (off : Offset) (s : State) : s.sameOperands (hostRead off s).2 := by
  rcases hostRead_state_cases off s with ⟨-, hr⟩ | ⟨r, -, hr⟩ | ⟨a, -, -, hr⟩ | ⟨a, -, -, hr⟩ <;> rw [hr]
  · exact ⟨rfl, rfl, rfl, rfl, rfl, by simp⟩
  · exact ⟨rfl, rfl, rfl, rfl, rfl, rfl⟩
  · exact ⟨rfl, rfl, rfl, rfl, rfl, by simp⟩
  · exact ⟨rfl, rfl, rfl, rfl, rfl, rfl⟩

/-- While a command is pending a transaction changes no operand, short of SRST, which is the soft reset (R90). -/
theorem State.hostStep_busy_cases (busy : s.status.busy = true) :
    s.sameOperands s.hostStep ∨ ∃ w rest, s.host = .write ctrlOff w :: rest ∧ w.getLsbD 31 = true ∧
      s.hostStep = { s.softReset with host := rest } := by
  rcases s.hostStep_cases with hs | ⟨off, w, rest, hhost, hs⟩ | ⟨off, rest, reads, hs⟩
  · exact .inl (by rw [hs]; exact ⟨rfl, rfl, rfl, rfl, rfl, rfl⟩)
  · rcases hostWrite_busy_sameOperands (off := off) (w := w) busy with hsame | ⟨rfl, hsrst, hw⟩
    · exact .inl (by rw [hs]; exact hsame)
    · exact .inr ⟨w, rest, hhost, hsrst, by rw [hs, hw]⟩
  · exact .inl (by rw [hs]; exact hostRead_sameOperands off s)

/-- Settles O46: a transaction on a busy GCORE is SRST or changes no operand. -/
theorem operandsAreStableWhileBusy : Obligations.OperandsAreStableWhileBusy := by
  intro s busy
  rcases State.hostStep_busy_cases busy with ⟨hargs, hbuf, hres, hcmd, hbuild, hbusy⟩ | ⟨w, rest, hhost, hsrst, -⟩
  · exact .inl ⟨hargs, hbuf, hres, hcmd, hbuild, hbusy.trans busy⟩
  · exact .inr ⟨w, rest, hhost, hsrst⟩

/-- A transaction leaves RES alone or is a soft reset (R33, R311). -/
theorem State.hostStep_res_cases (s : State) :
    s.hostStep.res = s.res ∨
      (s.hostStep.res = 0#64 ∧ s.hostStep.status = Status.clear ∧ s.hostStep.lastCmd = 0#32) := by
  rcases s.hostStep_cases with hs | ⟨off, w, rest, -, hs⟩ | ⟨off, rest, reads, hs⟩ <;> rw [hs]
  · exact .inl rfl
  · rcases hostWrite_cases off w s with hw | ⟨-, hw⟩ | ⟨-, -, hw⟩ | ⟨-, -, hw⟩ | ⟨-, hw⟩ | ⟨-, -, hw⟩ |
      ⟨i, -, -, hw⟩ | ⟨a, -, -, hw⟩ <;> rw [hw]
    case inr.inr.inl => exact .inr ⟨rfl, rfl, rfl⟩
    all_goals exact .inl rfl
  · obtain ⟨-, -, hres, -⟩ := hostRead_sameOperands off s
    exact .inl hres

/-- Completion leaves BUSY = 0 and DONE = 1 (R262). -/
theorem runPending_completed (h : runPending s = .next t) : t.status.busy = false ∧ t.status.done = true := by
  rcases runPending_cases s h with ⟨i, u, -, -, rfl⟩ | ⟨e, -, rfl⟩ <;> exact ⟨rfl, rfl⟩

/-- Settles O52: of the things a step can be, only completion and the resets write RES. -/
theorem resChangesOnlyOnCompletion : Obligations.ResChangesOnlyOnCompletion := by
  intro s t hstep hne
  obtain ⟨u, hu, hcase⟩ := step_cases s hstep
  obtain ⟨hres, hbusy⟩ : u.res = s.res ∧ u.status.busy = s.status.busy := by
    rcases hu with rfl | ⟨x, rest, -, rfl⟩ <;> exact ⟨rfl, rfl⟩
  rcases hcase with rfl | rfl | ⟨-, rfl⟩ | ⟨busy, hrun⟩
  · exact .inr (u.hostStep_res_cases.resolve_left (hres ▸ hne))
  · exact .inr ⟨rfl, rfl, rfl⟩
  · exact absurd hres hne
  · exact .inl ⟨hbusy ▸ busy, runPending_completed hrun⟩

/-! ### One access: the flags (R272, R281) -/

/-- A read clears no flag (R272). -/
theorem hostRead_has {c : Condition} (h : s.status.has c = true) : (hostRead off s).2.status.has c = true := by
  rcases hostRead_state_cases off s with ⟨-, hr⟩ | ⟨r, -, hr⟩ | ⟨a, -, -, hr⟩ | ⟨a, -, -, hr⟩ <;> rw [hr]
  all_goals simp [Status.with_has, h]

/-- A write clears a flag only as the soft reset or as a write of 1 to the flag's bit of STATUS (R272). -/
theorem hostWrite_clears_cases {c : Condition} (h : s.status.has c = true)
    (hclear : (hostWrite off w s).status.has c = false) :
    (hostWrite off w s).status = Status.clear ∨ (off = statusOff ∧ w.getLsbD c.bit = true) := by
  rcases hostWrite_cases off w s with hw | ⟨-, hw⟩ | ⟨-, -, hw⟩ | ⟨-, -, hw⟩ | ⟨htarget, hw⟩ | ⟨-, -, hw⟩ |
    ⟨i, -, -, hw⟩ | ⟨a, -, -, hw⟩ <;> rw [hw] at hclear ⊢
  case inr.inr.inl => exact .inl rfl
  case inr.inr.inr.inr.inl => exact .inr ⟨eq_statusOff htarget, by simpa [Status.writeOneToClear_has, h] using hclear⟩
  all_goals simp [Status.with_has, h] at hclear

/-- Settles O53: completion only adds flags, and a transaction clears one only as a reset or a write of 1 to its bit. -/
theorem flagsAreSticky : Obligations.FlagsAreSticky := by
  intro s t c hstep hset hclear
  obtain ⟨u, hu, hcase⟩ := step_cases s hstep
  obtain ⟨hstatus, hhost⟩ : u.status = s.status ∧ u.host = s.host := by
    rcases hu with rfl | ⟨x, rest, -, rfl⟩ <;> exact ⟨rfl, rfl⟩
  rw [← hstatus] at hset
  rw [← hhost]
  rcases hcase with rfl | rfl | ⟨-, rfl⟩ | ⟨-, hrun⟩
  · rcases u.hostStep_cases with hs | ⟨off, w, rest, hop, hs⟩ | ⟨off, rest, reads, hs⟩ <;> rw [hs] at hclear ⊢
    · simp [hset] at hclear
    · refine (hostWrite_clears_cases hset hclear).imp_right fun ⟨hoff, hbit⟩ => ⟨w, rest, ?_, c.bit, ?_, hbit⟩
      · rw [hop, hoff, statusOff]
      · cases c <;> simp [Condition.bit]
    · simp [hostRead_has hset] at hclear
  · exact .inl rfl
  · simp [hset] at hclear
  · rcases runPending_cases u hrun with ⟨i, v, -, he, rfl⟩ | ⟨e, -, rfl⟩
    · simp [exec_status_has he, hset] at hclear
    · simp [Status.with_has, hset] at hclear

/-- A write or a read of a mapped offset raises HOST_ERR, or raises OVR, or sets no flag. -/
theorem access_status_cases (h : t = (hostRead off s).2 ∨ t = hostWrite off w s) :
    t = s.raise .hostErr ∨ t = s.raise .ovr ∨ ∀ c, t.status.has c = true → s.status.has c = true := by
  rcases h with rfl | rfl
  · rcases hostRead_state_cases off s with ⟨-, hr⟩ | ⟨r, -, hr⟩ | ⟨a, -, -, hr⟩ | ⟨a, -, -, hr⟩ <;> rw [hr]
    · exact .inl rfl
    · exact .inr (.inr fun _ => id)
    · exact .inr (.inl rfl)
    · exact .inr (.inr fun _ => id)
  · rcases hostWrite_cases off w s with hw | ⟨-, hw⟩ | ⟨-, -, hw⟩ | ⟨-, -, hw⟩ | ⟨-, hw⟩ | ⟨-, -, hw⟩ | ⟨i, -, -, hw⟩ |
      ⟨a, -, -, hw⟩ <;> rw [hw]
    · exact .inl rfl
    · exact .inr (.inl rfl)
    · exact .inr (.inr fun c hc => by simp at hc)
    · exact .inr (.inr fun _ => id)
    · exact .inr (.inr fun c => s.status.writeOneToClear_has_le w c)
    · exact .inr (.inr fun c hc => by simpa using hc)
    · exact .inr (.inr fun _ => id)
    · exact .inr (.inr fun _ => id)

/-- A bad access raises HOST_ERR and nothing else (R82). -/
theorem access_of_not_mapped (h : t = (hostRead off s).2 ∨ t = hostWrite off w s) (hmap : ¬ mapped s.build off.toNat) :
    t = s.raise .hostErr := by
  have hbad := targetOf_eq_bad.2 hmap
  rcases h with rfl | rfl
  · rw [hostRead_bad hbad]
  · rw [hostWrite_bad w hbad]

/-- One access sets the flag of one condition at most, and that condition is HOST_ERR or OVR (R281). -/
theorem access_raises_one (h : t = (hostRead off s).2 ∨ t = hostWrite off w s) :
    ∃ c, (c = .hostErr ∨ c = .ovr) ∧ ∀ d, t.status.has d = true → s.status.has d = true ∨ c = d := by
  have raised : ∀ c d, (s.raise c).status.has d = true → s.status.has d = true ∨ c = d := fun c d hd => by
    simpa [Status.with_has] using hd
  rcases access_status_cases h with rfl | rfl | hle
  · exact ⟨.hostErr, .inl rfl, raised _⟩
  · exact ⟨.ovr, .inr rfl, raised _⟩
  · exact ⟨.ovr, .inr rfl, fun d hd => .inl (hle d hd)⟩

/-- Settles O51: the one condition that an access can raise, HOST_ERR where the access is bad. -/
theorem oneAccessRaisesAtMostOneCondition : Obligations.OneAccessRaisesAtMostOneCondition := by
  intro s off w t haccess hovr hhost
  obtain ⟨c, hc, hraise⟩ := access_raises_one haccess
  have kept : ∀ d, c ≠ d → s.status.has d = false → t.status.has d = false := fun d hne hd => by
    cases ht : t.status.has d with
    | false => rfl
    | true => exact absurd (hraise d ht) (by simp [hd, hne])
  have command : c ≠ .errPrn ∧ c ≠ .warnPrn ∧ c ≠ .errAddr ∧ c ≠ .errCmd := by
    rcases hc with rfl | rfl <;> simp
  obtain ⟨hprn, hwarn, haddr, hcmd⟩ := command
  refine ⟨?_, fun hmap => ?_, kept .errPrn hprn, kept .warnPrn hwarn, kept .errAddr haddr, kept .errCmd hcmd⟩
  · rcases hc with rfl | rfl
    · exact .inl (kept .ovr (by decide) hovr)
    · exact .inr (kept .hostErr (by decide) hhost)
  · rw [access_of_not_mapped haccess hmap]
    exact hovr

/-! ### Host duties (R321) and host programs (R119) -/

/-- A transaction of a duty-keeping host raises no OVR: what BUSY blocks, the host waits for (R320, R321). -/
theorem hostWrite_keeps_ovr_clear (hduty : (s.status.busy && hostOpWaits s.build (.write off w)) = false)
    (hovr : s.status.ovr = false) : (hostWrite off w s).status.ovr = false := by
  cases htarget : targetOf s.build off with
  | bad => rw [hostWrite_bad w htarget]; exact hovr
  | buf a =>
    have idle : s.status.busy = false := by simpa [hostOpWaits, htarget] using hduty
    rw [hostWrite_buf_idle w htarget idle]; exact hovr
  | reg r =>
    rw [hostWrite_reg w htarget]
    cases r
    case cmd | arg =>
      have idle : s.status.busy = false := by simpa [hostOpWaits, htarget] using hduty
      simp only [State.writeReg, idle]
      exact hovr
    case ctrl =>
      simp only [State.writeReg]
      split
      · rfl
      · exact hovr
    case status => simp [State.writeReg, Status.writeOneToClear, hovr]
    all_goals exact hovr

theorem hostRead_keeps_ovr_clear (hduty : ∀ a, targetOf s.build off = .buf a → s.status.busy = false)
    (hovr : s.status.ovr = false) : (hostRead off s).2.status.ovr = false := by
  rcases hostRead_state_cases off s with ⟨-, hr⟩ | ⟨r, -, hr⟩ | ⟨a, htarget, busy, -⟩ | ⟨a, -, -, hr⟩
  case inr.inr.inl => simp [hduty a htarget] at busy
  all_goals rw [hr]; exact hovr

/-- Settles O57: by the kind of the host's next transaction. -/
theorem dutifulHostSeesNoOverrun : Obligations.DutifulHostSeesNoOverrun := by
  intro s hduty hovr
  unfold State.dutiful at hduty
  unfold State.hostStep
  cases hhost : s.host with
  | nil => exact hovr
  | cons op rest =>
    simp only [hhost, Bool.not_eq_true'] at hduty
    cases op with
    | write off w => exact hostWrite_keeps_ovr_clear hduty hovr
    | read off name =>
      exact hostRead_keeps_ovr_clear (off := off) (fun a ha => by simpa [hostOpWaits, ha] using hduty) hovr
    | poll off mask value =>
      have hread := hostRead_keeps_ovr_clear (off := off) (fun a ha => by simpa [hostOpWaits, ha] using hduty) hovr
      dsimp only
      split <;> exact hread

theorem lookup_bindName_same (name : Nat) (v : Word) (reads : List (Nat × Word)) :
    (bindName name v reads).lookup name = some v := by
  simp [bindName]

theorem lookup_filter_ne {name other : Nat} (h : other ≠ name) (reads : List (Nat × Word)) :
    (reads.filter fun p => decide (p.1 ≠ name)).lookup other = reads.lookup other := by
  induction reads with
  | nil => rfl
  | cons p rest ih =>
    obtain ⟨key, v⟩ := p
    by_cases hkey : key = name
    · have hne : (other == key) = false := by simp [hkey, h]
      rw [List.filter_cons_of_neg (by simpa using hkey), ih, List.lookup_cons, hne]
    · rw [List.filter_cons_of_pos (by simpa using hkey), List.lookup_cons, List.lookup_cons, ih]

theorem lookup_bindName_ne {name other : Nat} (h : other ≠ name) (v : Word) (reads : List (Nat × Word)) :
    (bindName name v reads).lookup other = reads.lookup other := by
  have hne : (other == name) = false := by simpa using h
  rw [bindName, List.lookup_cons, hne, lookup_filter_ne h]

/-- A read of the bus changes neither the host's program nor its names. -/
theorem hostRead_keeps_host (off : Offset) (s : State) :
    (hostRead off s).2.host = s.host ∧ (hostRead off s).2.reads = s.reads := by
  rcases hostRead_state_cases off s with ⟨-, hr⟩ | ⟨r, -, hr⟩ | ⟨a, -, -, hr⟩ | ⟨a, -, -, hr⟩ <;> rw [hr] <;>
    exact ⟨rfl, rfl⟩

/-- Settles O58: the host's step at each kind of operation. -/
theorem hostOperationsAreSingleAccesses : Obligations.HostOperationsAreSingleAccesses := by
  intro s off rest
  refine ⟨fun w hhost => ?_, fun name hhost => ?_, fun mask value hhost => ⟨fun hmatch => ?_, fun hmiss => ?_⟩⟩
  · simp [State.hostStep, hhost]
  · have hstep : s.hostStep =
        { (hostRead off s).2 with host := rest, reads := bindName name (hostRead off s).1 s.reads } := by
      simp [State.hostStep, hhost]
    rw [hstep]
    exact ⟨rfl, lookup_bindName_same _ _ _, fun other hne => lookup_bindName_ne hne _ _⟩
  · simp [State.hostStep, hhost, hmatch]
  · have hstep : s.hostStep = (hostRead off s).2 := by simp [State.hostStep, hhost, hmiss]
    rw [hstep]
    exact ⟨rfl, hostRead_keeps_host off s⟩

/-! ### Resets (R310, R311, R312) -/

theorem freeBytes_length (d a n : Nat) : (freeBytes d a n).length = n := by simp [freeBytes]

/-- An abort draws every byte of the write range afresh, and no other byte (R311). -/
theorem State.abortedBuf_byte (s : State) (a : Nat) :
    (s.writeRange.1 ≤ a ∧ a < s.writeRange.1 + s.writeRange.2 → s.abortedBuf.byte a = Config.freeByte s.draws a) ∧
      (a < s.writeRange.1 ∨ s.writeRange.1 + s.writeRange.2 ≤ a → s.abortedBuf.byte a = s.buf.byte a) := by
  constructor
  · rintro ⟨hlow, hhigh⟩
    obtain ⟨j, rfl⟩ := Nat.exists_eq_add_of_le hlow
    rw [State.abortedBuf, Memory.byte_writeBytes_inside _ _ _ _ (by rw [freeBytes_length]; omega)]
    simp [freeBytes]
  · intro houtside
    exact Memory.byte_writeBytes_outside _ _ _ _ (by rwa [freeBytes_length])

/-- Settles O54: SRST is the soft reset, whose BUF is the aborted one where a command is pending. -/
theorem softResetClearsAndAborts : Obligations.SoftResetClearsAndAborts := by
  intro s w hsrst
  refine ⟨s.softReset, hostWrite_ctrlOff_srst s hsrst, rfl, rfl, rfl, rfl, fun i => ?_, rfl, rfl, rfl, rfl,
    fun idle => ?_, fun busy => ?_⟩
  · simp [State.arg]
  · simp [idle]
  · simpa [busy] using s.abortedBuf_byte

/-- A byte that has not been written since the power-on reset is the draw's (R310; log 5). -/
theorem Memory.byte_of_cells_nil (d a : Nat) : ({ fill := d, cells := [] } : Memory).byte a = Config.freeByte d a := rfl

/-- Settles O56: the power-on turn, and the state after reset field by field. -/
theorem powerOnResetState : Obligations.PowerOnResetState := by
  refine ⟨fun s rest hturn => ⟨_, step_turn s hturn, rfl, rfl, rfl, rfl, fun i => ?_, State.irq_of_enables_clear rfl, rfl,
    Memory.byte_of_cells_nil s.draws⟩, rfl, rfl, rfl, rfl, fun i => ?_, rfl, rfl, Memory.byte_of_cells_nil 0⟩
  · simp [State.arg]
  · simp [State.arg, State.reset]

/-! ### The write range (R312) -/

theorem prnOk_iff_prnInTable (s : State) : s.prnOk = true ↔ prnInTable s := s.prnOk_iff

theorem dstOk_iff_dstInside (s : State) (size n : Nat) : s.dstOk size n = true ↔ dstInside s size n :=
  s.dstOk_iff size n

open Classical in
/-- The two checks of a generation command, as the claims state them. -/
theorem checks_ite (s : State) (size n : Nat) {α : Type} (x y : α) :
    (if (s.prnOk && s.dstOk size n) = true then x else y) =
      if prnInTable s ∧ dstInside s size n then x else y := by
  simp only [Bool.and_eq_true, prnOk_iff_prnInTable, dstOk_iff_dstInside]

theorem writeRange_of_decode {i : Instr} (hd : decode s.lastCmd = .ok i) : s.writeRange =
    match i with
    | .genInt | .genReal => if s.prnOk && s.dstOk 4 1023 then (s.dst, 4092) else (0, 0)
    | .genCplx => if s.prnOk && s.dstOk 8 1023 then (s.dst, 8184) else (0, 0)
    | .genResamp => if s.prnOk && s.dstOk 8 s.samples then (s.dst, 8 * s.samples) else (0, 0)
    | _ => (0, 0) := by
  cases i <;> simp only [State.writeRange, hd]

/-- A word that is no generation command's has the empty write range. -/
theorem writeRange_empty (h : s.lastCmd.toNat = 0 ∨ 4 < s.lastCmd.toNat) : s.writeRange.2 = 0 := by
  cases hd : decode s.lastCmd with
  | error e => simp [State.writeRange, hd]
  | ok i =>
    have hword := decode_eq_ok.1 hd
    cases i
    case genInt | genReal | genCplx | genResamp => simp [Instr.op] at hword; omega
    all_goals rw [writeRange_of_decode hd]

/-- Settles O55: the write range by the pending word, and the bytes the engine's step writes. -/
theorem writeRangeBoundsTheCommandsWrites : Obligations.WriteRangeBoundsTheCommandsWrites := by
  intro s
  have range : ∀ {w : Word} {i : Instr}, s.lastCmd = w → w.toNat = i.op.toNat → decode s.lastCmd = .ok i :=
    fun hw hop => decode_eq_ok.2 (hw ▸ hop)
  refine ⟨?int, ?cplx, ?resamp, writeRange_empty, fun t hrun a houtside => ?written⟩
  case int =>
    rintro (hw | hw)
    · rw [writeRange_of_decode (range (i := .genInt) hw rfl)]; exact checks_ite s 4 1023 _ _
    · rw [writeRange_of_decode (range (i := .genReal) hw rfl)]; exact checks_ite s 4 1023 _ _
  case cplx =>
    intro hw
    rw [writeRange_of_decode (range (i := .genCplx) hw rfl)]; exact checks_ite s 8 1023 _ _
  case resamp =>
    intro hw
    rw [writeRange_of_decode (range (i := .genResamp) hw rfl)]; exact checks_ite s 8 s.samples _ _
  case written =>
    rcases runPending_writesItsRange hrun with hbuf | ⟨bs, hlen, hbuf⟩
    · rw [hbuf]
    · rw [hbuf, Memory.byte_writeBytes_outside _ _ _ _ (hlen ▸ houtside)]

end Sys2Proof.Machine
end

section
/-! PROOFS. Scheduling and determinism: a pending command completes (R263), and a command reads its operands and
nothing else (R264). -/

namespace Sys2Proof.Machine

open Sys2Proof.Claims

variable {s t : State} {i : Instr}

/-! ### Every command answers (R263) -/

theorem exec_total (i : Instr) (s : State) : ∃ t, exec i s = .next t := by
  cases i <;> exact ⟨_, rfl⟩

theorem runPending_total (s : State) : ∃ t, runPending s = .next t := by
  cases hd : decode s.lastCmd with
  | error e => exact ⟨_, runPending_illegal s hd⟩
  | ok i =>
    obtain ⟨t, ht⟩ := exec_total i s
    exact ⟨_, runPending_legal s hd ht⟩

theorem runPending_lastCmd (h : runPending s = .next t) : t.lastCmd = s.lastCmd := by
  rcases runPending_cases s h with ⟨i, u, -, he, rfl⟩ | ⟨e, -, rfl⟩
  · obtain ⟨-, -, hcmd, -⟩ := exec_frame he
    exact hcmd
  · rfl

/-! ### Runs -/

theorem run_succ {u : State} (n : Nat) (h : step s = .next u) :
    Host.Core.run Sys2Proof.core (n + 1) s = Host.Core.run Sys2Proof.core n u := by
  have hcore : Sys2Proof.core.step s = .next u := h
  simp only [Host.Core.run, hcore]

theorem run_one {u : State} (h : step s = .next u) : Host.Core.run Sys2Proof.core 1 s = .next u := run_succ 0 h

/-! ### A pending command ends (R263) -/

/-- A reset stands in the turns laid down or in the host's program. -/
def State.resetAhead (s : State) : Prop :=
  .powerOn ∈ s.turns ∨ ∃ w, .write ctrlOff w ∈ s.host ∧ w.getLsbD 31 = true

/-- `t` has no command pending: the one of `s` has completed, or a reset that lay ahead has discarded it. -/
def State.endsIn (s t : State) : Prop :=
  t.status.busy = false ∧
    ((t.status.done = true ∧ t.lastCmd = s.lastCmd) ∨
      (s.resetAhead ∧ t.status = Status.clear ∧ t.lastCmd = 0#32 ∧ t.res = 0#64))

/-- A step that is the engine's, on `s` or on `s` with a turn taken, completes the pending command (R262). -/
theorem engine_step_ends {u : State} (hstep : step s = runPending u) (hcmd : u.lastCmd = s.lastCmd) :
    ∃ t, step s = .next t ∧ s.endsIn t := by
  obtain ⟨t, ht⟩ := runPending_total u
  obtain ⟨hidle, hdone⟩ := runPending_completed ht
  exact ⟨t, hstep.trans ht, hidle, .inl ⟨hdone, (runPending_lastCmd ht).trans hcmd⟩⟩

/-- A transaction changes no turn, and its host's program is what is left of the one before (R119). -/
theorem State.hostStep_turns_host (s : State) : s.hostStep.turns = s.turns ∧ ∀ op ∈ s.hostStep.host, op ∈ s.host := by
  have hread : ∀ off, (hostRead off s).2.turns = s.turns := fun off => by
    rcases hostRead_state_cases off s with ⟨-, hr⟩ | ⟨r, -, hr⟩ | ⟨a, -, -, hr⟩ | ⟨a, -, -, hr⟩ <;> rw [hr] <;> rfl
  have hwrite : ∀ off w, (hostWrite off w s).turns = s.turns := fun off w => by
    rcases hostWrite_cases off w s with hw | ⟨-, hw⟩ | ⟨-, -, hw⟩ | ⟨-, -, hw⟩ | ⟨-, hw⟩ | ⟨-, -, hw⟩ |
      ⟨i, -, -, hw⟩ | ⟨a, -, -, hw⟩ <;> rw [hw] <;> rfl
  unfold State.hostStep
  cases hhost : s.host with
  | nil => exact ⟨rfl, fun op => by simp [hhost]⟩
  | cons op rest =>
    have hrest : ∀ op' ∈ rest, op' ∈ op :: rest := fun _ => List.mem_cons_of_mem _
    cases op with
    | write off w => exact ⟨hwrite off w, hrest⟩
    | read off name => exact ⟨hread off, hrest⟩
    | poll off mask value =>
      dsimp only
      split
      · exact ⟨hread off, hrest⟩
      · exact ⟨hread off, fun op' => by rw [(hostRead_keeps_host off s).1, hhost]; exact id⟩

/-- The reset that lies ahead after a host's turn lay ahead before it. -/
theorem resetAhead_of_hostStep {rest : List Turn} (hturn : s.turns = .host :: rest)
    (h : ({ s with turns := rest } : State).hostStep.resetAhead) : s.resetAhead := by
  obtain ⟨hturns, hhost⟩ := State.hostStep_turns_host { s with turns := rest }
  rcases h with hmem | ⟨w, hmem, hsrst⟩
  · rw [hturns] at hmem
    exact .inl (hturn ▸ List.mem_cons_of_mem _ hmem)
  · exact .inr ⟨w, hhost _ hmem, hsrst⟩

/-- A pending command ends within one more step than there are turns, by induction on the turns: each but the last
step is a transaction of the host's that leaves the command pending. -/
theorem pending_ends (turns : List Turn) (s : State) (hturns : s.turns = turns) (busy : s.status.busy = true) :
    ∃ n t, n ≤ turns.length + 1 ∧ Host.Core.run Sys2Proof.core n s = .next t ∧ s.endsIn t := by
  induction turns generalizing s with
  | nil =>
    have hstep : step s = runPending s := by
      rw [step_no_turn s hturns, if_pos busy, takeTurn, engineTurn, if_pos busy]
    obtain ⟨t, ht, hend⟩ := engine_step_ends hstep rfl
    exact ⟨1, t, by simp, run_one ht, hend⟩
  | cons x rest ih =>
    have hstep := step_turn s hturns
    cases x with
    | engine =>
      rw [takeTurn, engineTurn, if_pos busy] at hstep
      obtain ⟨t, ht, hend⟩ := engine_step_ends hstep rfl
      exact ⟨1, t, by simp, run_one ht, hend⟩
    | powerOn =>
      have hahead : s.resetAhead := .inl (by simp [hturns])
      exact ⟨1, _, by simp, run_one hstep, rfl, .inr ⟨hahead, rfl, rfl, rfl⟩⟩
    | host =>
      have hbusy : ({ s with turns := rest } : State).status.busy = true := busy
      rcases State.hostStep_busy_cases hbusy with ⟨-, -, -, hcmd, -, hstill⟩ | ⟨w, ops, hhost, hsrst, hreset⟩
      · obtain ⟨n, t, hn, hrun, hidle, hend⟩ := ih ({ s with turns := rest } : State).hostStep
          (State.hostStep_turns_host _).1 (hstill.trans busy)
        refine ⟨n + 1, t, by simpa using hn, (run_succ n hstep).trans hrun, hidle, ?_⟩
        exact hend.imp (fun ⟨hdone, hlast⟩ => ⟨hdone, hlast.trans hcmd⟩)
          fun ⟨hahead, hclear⟩ => ⟨resetAhead_of_hostStep hturns hahead, hclear⟩
      · have hahead : s.resetAhead := .inr ⟨w, by rw [show s.host = _ from hhost]; exact List.mem_cons_self, hsrst⟩
        rw [takeTurn, hreset] at hstep
        exact ⟨1, _, by simp, run_one hstep, rfl, .inr ⟨hahead, rfl, rfl, rfl⟩⟩

/-- Settles O8: a pending command ends as `pending_ends` says, in completion where no reset lies ahead. -/
theorem pendingCommandCompletes : Obligations.PendingCommandCompletes := by
  refine ⟨fun s busy => ?_, fun s busy hturns hhost => ?_, fun s t i busy legal hturn hexec => ?_⟩
  · obtain ⟨n, t, hn, hrun, hidle, hend⟩ := pending_ends s.turns s rfl busy
    exact ⟨n, t, hn, hrun, hidle, hend.imp_right fun ⟨_, hclear⟩ => hclear⟩
  · obtain ⟨n, t, hn, hrun, hidle, hend⟩ := pending_ends s.turns s rfl busy
    have hnone : ¬ s.resetAhead := by
      rintro (hmem | ⟨w, hmem, hsrst⟩)
      · exact hturns _ hmem rfl
      · exact Bool.false_ne_true ((hhost w hmem).symm.trans hsrst)
    obtain ⟨hdone, hlast⟩ := hend.resolve_right fun ⟨hahead, _⟩ => hnone hahead
    exact ⟨n, t, hn, hrun, hidle, hdone, hlast⟩
  · rw [step_no_turn s hturn, if_pos busy, takeTurn, engineTurn, if_pos busy]
    exact runPending_legal s legal hexec

/-! ### Determinism (R264) -/

/-- The score reads the bytes of BUF and nothing else of it (R241). -/
theorem windowScore_congr {m m' : Memory} (b : Build) (src : Nat) (h : ∀ a, m.byte a = m'.byte a) :
    windowScore b m src = windowScore b m' src := by
  have hsymbol : ∀ k, m.symbol src k = m'.symbol src k := fun k => by
    rw [Memory.symbol, Memory.symbol, Memory.memRead_congr _ _ _ _ fun j _ => h _]
  simp only [windowScore, hsymbol]

theorem byte_writeBytes_congr {m m' : Memory} (a : Nat) (bs : List Byte) (h : ∀ x, m.byte x = m'.byte x) (x : Nat) :
    (m.writeBytes a bs).byte x = (m'.writeBytes a bs).byte x := by
  rw [Memory.byte_writeBytes, Memory.byte_writeBytes, h]

/-- A state with another's operands: its ARG and build are that state's, and the rest is its own. -/
theorem eq_with_args_build {s' : State} (hargs : s.args = s'.args) (hbuild : s.build = s'.build) :
    s' = { s' with args := s.args, build := s.build } := by
  rw [hargs, hbuild]

/-- The conditions a command raises are those of its operands and the build (R264). -/
theorem commandRaises_congr {s' : State} (i : Instr) (c : Condition) (hargs : s.args = s'.args)
    (hbuild : s.build = s'.build) : s.commandRaises i c = s'.commandRaises i c := by
  rw [eq_with_args_build hargs hbuild]
  rfl

/-- The bytes a command leaves are those of its operands, the build and the bytes before (R264). -/
theorem exec_byte_congr {s' t' : State} (hargs : s.args = s'.args) (hbuild : s.build = s'.build)
    (hbytes : ∀ a, s.buf.byte a = s'.buf.byte a) (h : exec i s = .next t) (h' : exec i s' = .next t') (a : Nat) :
    t.buf.byte a = t'.buf.byte a := by
  have waveform : ∀ (ok : Bool) (dst : Nat) (bs : List Byte),
      (if ok then s.buf.writeBytes dst bs else s.buf).byte a =
        (if ok then s'.buf.writeBytes dst bs else s'.buf).byte a := by
    intro ok dst bs
    cases ok
    · exact hbytes a
    · exact byte_writeBytes_congr dst bs hbytes a
  rw [eq_with_args_build hargs hbuild] at h'
  cases i
  case genInt | genReal | genCplx | genResamp => cases h; cases h'; exact waveform _ _ _
  case preCorr =>
    rw [exec_preCorr] at h h'
    cases h; cases h'
    split <;> split <;> exact hbytes a
  all_goals cases h; cases h'; exact hbytes a

theorem preCorr_res (h : exec .preCorr s = .next t) :
    t.res = if s.srcOk then BitVec.ofInt 64 (windowScore s.build s.buf s.src) else 0#64 := by
  rw [exec_preCorr] at h
  cases h
  split <;> rfl

/-- The result of a command other than NOP is that of its operands, the build and the bytes of BUF (R264). -/
theorem exec_res_congr {s' t' : State} (hnop : i ≠ .nop) (hargs : s.args = s'.args) (hbuild : s.build = s'.build)
    (hbytes : ∀ a, s.buf.byte a = s'.buf.byte a) (h : exec i s = .next t) (h' : exec i s' = .next t') :
    t.res = t'.res := by
  cases i
  case nop => exact absurd rfl hnop
  case preCorr =>
    have hscore := windowScore_congr s.build s.src hbytes
    rw [eq_with_args_build hargs hbuild] at h'
    rw [preCorr_res h, preCorr_res h', hscore]
    rfl
  all_goals
    rw [eq_with_args_build hargs hbuild] at h'
    cases h; cases h'; rfl

/-- Settles O9: bytes, RES and raised conditions of a command are functions of ARG, the build and the bytes of BUF. -/
theorem commandsDependOnOperandsOnly : Obligations.CommandsDependOnOperandsOnly := by
  intro i s s' t t' hargs hbuild hbytes h h'
  obtain ⟨hbusy, hdone⟩ := exec_status_busy_done h
  obtain ⟨hbusy', hdone'⟩ := exec_status_busy_done h'
  refine ⟨exec_byte_congr hargs hbuild hbytes h h', fun hnop => exec_res_congr hnop hargs hbuild hbytes h h', ?_,
    ⟨s.commandRaises i, fun c => ⟨exec_status_has h c, ?_⟩⟩, hbusy, hbusy', hdone, hdone'⟩
  · rintro rfl
    cases h; cases h'
    exact ⟨rfl, rfl⟩
  · rw [commandRaises_congr i c hargs hbuild]
    exact exec_status_has h' c

end Sys2Proof.Machine
end

section
/-! PROOFS. The generation commands: what GEN_INT, GEN_REAL, GEN_CPLX and GEN_RESAMP write (R117, R141 to R143, R149 to
R153, R156), the chip formula (R146 to R148) and the resampler's indices (R180 to R183). -/

namespace Sys2Proof.Machine

open Sys2Proof.Claims

variable {s t u : State} {i : Instr}

/-! ### Waveforms (R149, R183) -/

/-- `t` has the waveform of `n` elements in BUF and `n` in RES where the checks of `s` pass, else the BUF of `s` and 0;
the guard may leave out a waveform of no elements. -/
def State.getsWaveform (s t : State) {w : Nat} (enc : Int → BitVec w) (size n : Nat) (pos : Nat → Nat) : Prop :=
  ∃ ok : Bool, (ok = true ↔ (prnInTable s ∧ dstInside s size n) ∧ 0 < n) ∧
    t.buf = (if ok then s.buf.writeBytes s.dst (elementBytes enc s.tableIndex s.chipShift n pos) else s.buf) ∧
    t.res = if ok then BitVec.ofNat 64 n else 0#64

theorem genCommon_getsWaveform {w size : Nat} (enc : Int → BitVec w) (s : State) (hsize : w / 8 = size) :
    s.getsWaveform (genCommon w enc s) enc size 1023 id := by
  subst hsize
  refine ⟨_, ?_, genCommon_buf enc s, genCommon_res enc s⟩
  rw [Bool.and_eq_true, prnOk_iff_prnInTable, dstOk_iff_dstInside]
  exact ⟨fun h => ⟨h, by decide⟩, fun h => h.1⟩

theorem resampled_getsWaveform (s : State) :
    s.getsWaveform (resampled s) encodeCplx 8 s.samples (srcIdx s.fs.toNat s.samples) := by
  refine ⟨_, ?_, resampled_buf s, resampled_res s⟩
  rw [Bool.and_eq_true, Bool.and_eq_true, prnOk_iff_prnInTable, dstOk_iff_dstInside, decide_eq_true_iff]

/-- The flags of the two checks, as conditions on the operands (R141 to R143, R84). -/
theorem checksRaise_eq (s : State) (size n : Nat) :
    (s.checksRaise size n .errPrn = true ↔ ¬ prnInTable s) ∧
      (s.checksRaise size n .warnPrn = true ↔ 33 ≤ (s.arg 0).toInt ∧ (s.arg 0).toInt ≤ 51) ∧
      (s.checksRaise size n .errAddr = true ↔ ¬ dstInside s size n) := by
  refine ⟨?_, ?_, ?_⟩
  · simp [State.checksRaise, ← prnOk_iff_prnInTable]
  · have hwarn : (s.prnOk && !prnListed s.prn) = true ↔ 33 ≤ (s.arg 0).toInt ∧ (s.arg 0).toInt ≤ 51 := s.prnWarn_iff
    simpa [State.checksRaise] using hwarn
  · simp [State.checksRaise, ← dstOk_iff_dstInside]

/-- A PRN of the table has the table index of the claims (R141). -/
theorem tableIndex_eq_indexOfPrn (h : prnInTable s) : s.tableIndex = indexOfPrn s :=
  s.tableIndex_of_prnOk ((prnOk_iff_prnInTable s).2 h)

/-- A command that gets the waveform and raises the conditions of its checks does what the claims say of it: each
element reads back where it was written, and no byte outside its range changes. -/
theorem writesWaveform_of_getsWaveform {w size : Nat} {n : State → Nat} {pos : State → Nat → Nat} {encode : Int → Nat}
    (enc : Int → BitVec w) (hsize : w = 8 * size) (henc : ∀ c, (enc c).toNat = encode c) (hn : ∀ s, n s < 2 ^ 64)
    (hget : ∀ s t, exec i s = .next t → s.getsWaveform t enc size (n s) (pos s))
    (hraise : ∀ (s : State) c, s.commandRaises i c = s.checksRaise size (n s) c) : writesWaveform i size n pos encode := by
  classical
  intro s
  obtain ⟨t, ht⟩ := exec_total i s
  obtain ⟨ok, hok, hbuf, hres⟩ := hget s t ht
  have hdiv : w / 8 = size := by omega
  have hlen : (elementBytes enc s.tableIndex s.chipShift (n s) (pos s)).length = n s * size := by
    rw [elementBytes_length, hdiv]
  obtain ⟨hprn, hwarn, haddr⟩ := checksRaise_eq s size (n s)
  have flag : ∀ (c : Condition) (p : Prop) [Decidable p], (s.checksRaise size (n s) c = true ↔ p) →
      t.status.has c = (s.status.has c || decide p) := by
    intro c p _ hp
    rw [exec_status_has ht, hraise, Bool.eq_iff_iff.2 (hp.trans decide_eq_true_iff.symm)]
  refine ⟨t, ht, exec_frame ht, fun hpass => ?_, fun hfail => ?_, fun a houtside => ?_, flag .errPrn _ hprn,
    flag .warnPrn _ hwarn, flag .errAddr _ haddr⟩
  · rcases Nat.eq_zero_or_pos (n s) with hzero | hpos
    · have hfalse : ok = false := by rw [← Bool.not_eq_true, hok]; omega
      refine ⟨by rw [hres, hfalse, hzero]; rfl, fun p hp => by omega⟩
    · have htrue : ok = true := hok.2 ⟨hpass, hpos⟩
      rw [htrue] at hbuf hres
      refine ⟨by rw [hres]; exact Nat.mod_eq_of_lt (hn s), fun p hp => ?_⟩
      have hread := memRead_waveform enc s.tableIndex s.chipShift (pos s) s.buf s.dst (n s) p (by omega) hp
      rw [hdiv, henc, Nat.mul_comm p] at hread
      rw [hbuf, ← tableIndex_eq_indexOfPrn hpass.1]
      exact hread
  · have hfalse : ok = false := by rw [← Bool.not_eq_true, hok]; exact fun h => hfail h.1
    rw [hfalse] at hbuf hres
    exact ⟨hres, fun a => by rw [hbuf]; rfl⟩
  · rw [hbuf]
    split
    · exact Memory.byte_writeBytes_outside _ _ _ _ (by rw [hlen]; exact houtside)
    · rfl

theorem toNat_encodeInt (c : Int) : (encodeInt c).toNat = if c = 1 then 0x00000001 else 0xFFFFFFFF := by
  unfold encodeInt; split <;> rfl

theorem toNat_encodeReal (c : Int) : (encodeReal c).toNat = if c = 1 then 0x3F800000 else 0xBF800000 := by
  unfold encodeReal; split <;> rfl

theorem toNat_encodeCplx (c : Int) :
    (encodeCplx c).toNat = if c = 1 then 0x3F80000000000000 else 0xBF80000000000000 := by
  unfold encodeCplx encodeReal; split <;> rfl

/-- Settles O11. -/
theorem genIntWritesTheCode : Obligations.GenIntWritesTheCode :=
  writesWaveform_of_getsWaveform encodeInt rfl toNat_encodeInt (fun _ => by decide)
    (fun s t h => by cases h; exact genCommon_getsWaveform encodeInt s rfl) (fun _ _ => rfl)

/-- Settles O12. -/
theorem genRealWritesTheCode : Obligations.GenRealWritesTheCode :=
  writesWaveform_of_getsWaveform encodeReal rfl toNat_encodeReal (fun _ => by decide)
    (fun s t h => by cases h; exact genCommon_getsWaveform encodeReal s rfl) (fun _ _ => rfl)

/-- Settles O13. -/
theorem genCplxWritesTheCode : Obligations.GenCplxWritesTheCode :=
  writesWaveform_of_getsWaveform encodeCplx rfl toNat_encodeCplx (fun _ => by decide)
    (fun s t h => by cases h; exact genCommon_getsWaveform encodeCplx s rfl) (fun _ _ => rfl)

/-! ### The sample count and the source index (R180 to R182) -/

/-- Settles O21. -/
theorem sampleCountIsTheDocumentsFloor : Obligations.SampleCountIsTheDocumentsFloor := by
  intro w
  have hmax : w.toInt < 2 ^ 31 := BitVec.toInt_lt
  unfold sampleCount
  refine ⟨fun hw => ?_, fun hw => if_neg (by omega), ?_⟩
  · split <;> omega
  · split <;> omega

theorem samplesOf_lt (s : State) : samplesOf s < 2 ^ 64 := by
  obtain ⟨-, -, hmax⟩ := sampleCountIsTheDocumentsFloor (s.arg 3)
  exact hmax.trans_lt (by decide)

/-- Settles O14. -/
theorem genResampWritesTheSamples : Obligations.GenResampWritesTheSamples :=
  writesWaveform_of_getsWaveform encodeCplx rfl toNat_encodeCplx samplesOf_lt
    (fun s t h => by cases h; exact resampled_getsWaveform s) (fun _ _ => rfl)

/-- Rounding up by adding one less than the divisor is the ceiling (R181). -/
theorem natCast_ceilDiv (x : Nat) {fs : Nat} (hfs : 0 < fs) : (((x + fs - 1) / fs : Nat) : ℤ) = ⌈(x : ℚ) / fs⌉ := by
  have hpos : (0 : ℚ) < fs := by exact_mod_cast hfs
  have hdiv := Nat.div_add_mod (x + fs - 1) fs
  have hmod := Nat.mod_lt (x + fs - 1) hfs
  rw [eq_comm, Int.ceil_eq_iff, lt_div_iff₀ hpos, div_le_iff₀ hpos]
  generalize (x + fs - 1) / fs = q at *
  have hlow : (q : ℚ) * fs < x + fs := by exact_mod_cast (show q * fs < x + fs by rw [Nat.mul_comm]; omega)
  have hhigh : (x : ℚ) ≤ q * fs := by exact_mod_cast (show x ≤ q * fs by rw [Nat.mul_comm]; omega)
  constructor
  · push_cast; linarith
  · push_cast; exact hhigh

theorem srcIdx_last {fs n i : Nat} (h : i + 1 = n) : srcIdx fs n i = 1022 := if_pos h

theorem srcIdx_inner {fs n i : Nat} (h : i + 1 ≠ n) : srcIdx fs n i = ((i + 1) * 1023000 + fs - 1) / fs - 1 := if_neg h

/-- An inner sample is taken from a chip before the last (R182). -/
theorem srcIdx_inner_le {fs i : Nat} (hfs : 1000 ≤ fs) (hi : i + 1 < fs / 1000) :
    ((i + 1) * 1023000 + fs - 1) / fs - 1 ≤ 1022 := by
  have hlt : ((i + 1) * 1023000 + fs - 1) / fs < 1024 := (Nat.div_lt_iff_lt_mul (by omega)).2 (by omega)
  omega

/-- Settles O22: the last sample and the inner ones, whose index is a ceiling that rises with the sample. -/
theorem sourceIndexIsTheExactCeiling : Obligations.SourceIndexIsTheExactCeiling := by
  intro fs i hfs hi
  refine ⟨?_, srcIdx_last, fun hinner => ?_, fun j hj hlast => ?_⟩
  · by_cases hlast : i + 1 = fs / 1000
    · rw [srcIdx_last hlast]
    · rw [srcIdx_inner hlast]
      exact srcIdx_inner_le hfs (by omega)
  · have hone : 1 ≤ ((i + 1) * 1023000 + fs - 1) / fs := (Nat.le_div_iff_mul_le (by omega)).2 (by omega)
    have hceil := natCast_ceilDiv ((i + 1) * 1023000) (show 0 < fs by omega)
    rw [srcIdx_inner hinner, Nat.cast_sub hone, hceil]
    push_cast
    rfl
  · rw [srcIdx_inner (by omega), srcIdx_inner (by omega)]
    exact Nat.sub_le_sub_right (Nat.div_le_div_right (by omega)) 1

/-! ### Aliased and invalid PRNs (R143, R156) -/

/-- Every generation command gets a waveform, of a length and with positions that ARG3 alone decides. -/
theorem exec_gen_getsWaveform (hgen : isGen i) : ∃ (w size : Nat) (enc : Int → BitVec w) (n : Word → Nat)
    (pos : Word → Nat → Nat), ∀ s t, exec i s = .next t →
      s.getsWaveform t enc size (n (s.arg 3)) (pos (s.arg 3)) ∧
        ∀ c, t.status.has c = (s.status.has c || s.checksRaise size (n (s.arg 3)) c) := by
  rcases hgen with rfl | rfl | rfl | rfl
  · refine ⟨32, 4, encodeInt, fun _ => 1023, fun _ => id, fun s t h => ⟨?_, exec_status_has h⟩⟩
    cases h; exact genCommon_getsWaveform encodeInt s rfl
  · refine ⟨32, 4, encodeReal, fun _ => 1023, fun _ => id, fun s t h => ⟨?_, exec_status_has h⟩⟩
    cases h; exact genCommon_getsWaveform encodeReal s rfl
  · refine ⟨64, 8, encodeCplx, fun _ => 1023, fun _ => id, fun s t h => ⟨?_, exec_status_has h⟩⟩
    cases h; exact genCommon_getsWaveform encodeCplx s rfl
  · refine ⟨64, 8, encodeCplx, fun v => sampleCount v.toInt, fun v => srcIdx v.toInt.toNat (sampleCount v.toInt),
      fun s t h => ⟨?_, exec_status_has h⟩⟩
    cases h; exact resampled_getsWaveform s

/-- What a waveform leaves in BUF and RES depends on ARG0 through the table index alone (R141). -/
theorem getsWaveform_congr_prnIndex {w size n : Nat} {enc : Int → BitVec w} {pos : Nat → Nat} {v v' : Word}
    (hidx : prnIndex v.toInt = prnIndex v'.toInt) (h : (s.setArg 0 v).getsWaveform t enc size n pos)
    (h' : (s.setArg 0 v').getsWaveform u enc size n pos) : t.buf = u.buf ∧ t.res = u.res := by
  have hother : ∀ j : Fin 8, j ≠ 0 → (s.setArg 0 v).arg j = (s.setArg 0 v').arg j := fun j hj => by
    rw [State.arg_setArg_ne _ _ hj, State.arg_setArg_ne _ _ hj]
  have hprn : prnIndex (s.setArg 0 v).prn = prnIndex (s.setArg 0 v').prn := by
    simpa [State.prn, State.argI32] using hidx
  have hdst : (s.setArg 0 v).dst = (s.setArg 0 v').dst := congrArg BitVec.toNat (hother 2 (by decide))
  have hshift : (s.setArg 0 v).chipShift = (s.setArg 0 v').chipShift := congrArg BitVec.toNat (hother 1 (by decide))
  have hindex : (s.setArg 0 v).tableIndex = (s.setArg 0 v').tableIndex := congrArg Int.toNat hprn
  have htable : prnInTable (s.setArg 0 v) ↔ prnInTable (s.setArg 0 v') := by
    rw [← prnOk_iff_prnInTable, ← prnOk_iff_prnInTable, State.prnOk, State.prnOk, hprn]
  have hinside : dstInside (s.setArg 0 v) size n ↔ dstInside (s.setArg 0 v') size n := by
    rw [← dstOk_iff_dstInside, ← dstOk_iff_dstInside, State.dstOk, State.dstOk, hdst]
    rfl
  obtain ⟨ok, hok, hbuf, hres⟩ := h
  obtain ⟨ok', hok', hbuf', hres'⟩ := h'
  have hsame : ok = ok' := by rw [Bool.eq_iff_iff, hok, hok', htable, hinside]
  subst hsame
  rw [hdst, hindex, hshift] at hbuf
  exact ⟨hbuf.trans hbuf'.symm, hres.trans hres'.symm⟩

/-- Where the PRN is not in the table nothing is written (R156). -/
theorem getsWaveform_of_not_prnInTable {w size n : Nat} {enc : Int → BitVec w} {pos : Nat → Nat}
    (h : s.getsWaveform t enc size n pos) (hprn : ¬ prnInTable s) : t.buf = s.buf ∧ t.res = 0#64 := by
  obtain ⟨ok, hok, hbuf, hres⟩ := h
  have hfalse : ok = false := by rw [← Bool.not_eq_true, hok]; exact fun hpass => hprn hpass.1.1
  rw [hfalse] at hbuf hres
  exact ⟨hbuf, hres⟩

theorem toInt_ofNat_of_lt {n : Nat} (h : n < 2 ^ 31) : (BitVec.ofNat 32 n).toInt = n := by
  have hmod : (BitVec.ofNat 32 n).toNat = n := by rw [BitVec.toNat_ofNat]; omega
  rw [BitVec.toInt_eq_toNat_of_lt (by omega), hmod]

/-- Settles O19: PRN 33 + j and PRN 120 + j have one table index, and the check warns of the first alone. -/
theorem aliasedPrnsGiveTheSbasCode : Obligations.AliasedPrnsGiveTheSbasCode := by
  intro i s j hgen hj
  obtain ⟨w, size, enc, n, pos, hwave⟩ := exec_gen_getsWaveform hgen
  obtain ⟨t, ht⟩ := exec_total i (s.setArg 0 (BitVec.ofNat 32 (33 + j)))
  obtain ⟨u, hu⟩ := exec_total i (s.setArg 0 (BitVec.ofNat 32 (120 + j)))
  obtain ⟨hget, hflags⟩ := hwave _ _ ht
  obtain ⟨hget', hflags'⟩ := hwave _ _ hu
  have hprn : (BitVec.ofNat 32 (33 + j)).toInt = (33 + j : Nat) := toInt_ofNat_of_lt (by omega)
  have hprn' : (BitVec.ofNat 32 (120 + j)).toInt = (120 + j : Nat) := toInt_ofNat_of_lt (by omega)
  have hidx : prnIndex (BitVec.ofNat 32 (33 + j)).toInt = prnIndex (BitVec.ofNat 32 (120 + j)).toInt := by
    rw [hprn, hprn', prnIndex, prnIndex, if_neg (by omega), if_pos (by omega)]
    omega
  have hfs : (s.setArg 0 (BitVec.ofNat 32 (33 + j))).arg 3 = (s.setArg 0 (BitVec.ofNat 32 (120 + j))).arg 3 := by
    rw [State.arg_setArg_ne _ _ (by decide), State.arg_setArg_ne _ _ (by decide)]
  obtain ⟨hbuf, hres⟩ := getsWaveform_congr_prnIndex hidx hget (hfs ▸ hget')
  obtain ⟨-, hwarn, -⟩ := checksRaise_eq (s.setArg 0 (BitVec.ofNat 32 (33 + j))) size
    (n ((s.setArg 0 (BitVec.ofNat 32 (33 + j))).arg 3))
  obtain ⟨-, hwarn', -⟩ := checksRaise_eq (s.setArg 0 (BitVec.ofNat 32 (120 + j))) size
    (n ((s.setArg 0 (BitVec.ofNat 32 (120 + j))).arg 3))
  rw [State.arg_setArg_same, hprn] at hwarn
  rw [State.arg_setArg_same, hprn', ← not_iff_not, Bool.not_eq_true] at hwarn'
  refine ⟨t, u, ht, hu, hbuf, hres, ?_, ?_⟩
  · have hset := hflags .warnPrn
    rw [hwarn.2 (by omega), Bool.or_true] at hset
    exact hset
  · have hkeep := hflags' .warnPrn
    rw [hwarn'.2 (by omega), Bool.or_false] at hkeep
    exact hkeep

/-- Settles O20: PRN 0 and PRN 200 are not in the table. -/
theorem invalidPrnWritesNothing : Obligations.InvalidPrnWritesNothing := by
  intro i s hgen hprn
  obtain ⟨w, size, enc, n, pos, hwave⟩ := exec_gen_getsWaveform hgen
  obtain ⟨t, ht⟩ := exec_total i s
  obtain ⟨hget, hflags⟩ := hwave _ _ ht
  have hinvalid : ¬ prnInTable s := by
    unfold prnInTable
    rcases hprn with h | h <;> rw [h] <;> decide
  obtain ⟨hbuf, hres⟩ := getsWaveform_of_not_prnInTable hget hinvalid
  have hset := hflags .errPrn
  rw [(checksRaise_eq s size _).1.2 hinvalid, Bool.or_true] at hset
  exact ⟨t, ht, fun a => by rw [hbuf], hres, hset⟩

/-! ### The chip rate (R183) -/

/-- At the chip rate every sample is a chip of its own (R183). -/
theorem srcIdx_chipRate {i : Nat} (hi : i < 1023) : srcIdx 1023000 1023 i = i := by
  unfold srcIdx; split <;> omega

/-- At twice the chip rate every chip is two samples (R183). -/
theorem srcIdx_twiceChipRate {i : Nat} (hi : i < 2046) : srcIdx 2046000 2046 i = i / 2 := by
  unfold srcIdx; split <;> omega

theorem elementBytes_congr {w : Nat} (enc : Int → BitVec w) (idx shift n : Nat) {pos pos' : Nat → Nat}
    (h : ∀ i, i < n → pos i = pos' i) : elementBytes enc idx shift n pos = elementBytes enc idx shift n pos' := by
  unfold elementBytes
  exact List.flatMap_congr fun i hi => by rw [h i (List.mem_range.1 hi)]

/-- At the chip rate GEN_RESAMP is GEN_CPLX (R183). -/
theorem resampled_eq_genCommon (h : s.arg 3 = 1023000#32) : resampled s = genCommon 64 encodeCplx s := by
  have hfs : s.fs = 1023000 := by
    rw [State.fs, State.argI32, h]; rfl
  have hn : s.samples = 1023 := by rw [State.samples, hfs]; rfl
  have hbytes : elementBytes encodeCplx s.tableIndex s.chipShift 1023 (srcIdx 1023000 1023) =
      elementBytes encodeCplx s.tableIndex s.chipShift 1023 id := elementBytes_congr _ _ _ _ fun _ => srcIdx_chipRate
  have hok : (s.prnOk && s.dstOk 8 1023 && decide (0 < 1023)) = (s.prnOk && s.dstOk 8 1023) := Bool.and_true _
  rw [resampled, genCommon, hn, hfs, show (1023000 : Int).toNat = 1023000 from rfl, hbytes, hok]

/-- Settles O23. -/
theorem resamplingAtTheChipRateIsTheCode : Obligations.ResamplingAtTheChipRateIsTheCode := by
  refine ⟨fun s t u h ht hu => ?_, fun i hi => srcIdx_twiceChipRate hi⟩
  rw [exec_genResamp, resampled_eq_genCommon h, ← exec_genCplx, hu] at ht
  cases ht
  exact ⟨rfl, rfl, rfl⟩

/-! ### The chip formula (R146 to R148, R153) -/

/-- The chip with the shift left unreduced (R146 to R148). -/
theorem chip_eq (idx shift p : Nat) : chip idx shift p =
    if generated.g1seq.getLsbD ((p + shift) % 1023) ^^
      generated.g2seq.getLsbD ((1023 - delayRom idx + shift + p) % 1023) then 1 else -1 := by
  have h1 : (p + shift % 1023) % 1023 = (p + shift) % 1023 := by omega
  have h2 : ((1023 - delayRom idx + shift % 1023) % 1023 + p) % 1023 = (1023 - delayRom idx + shift + p) % 1023 := by
    omega
  simp only [chip, chipOf, shiftMod, effectiveDelay, h1, h2]

theorem chip_eq_one_or_neg_one (idx shift p : Nat) : chip idx shift p = 1 ∨ chip idx shift p = -1 := by
  rw [chip_eq]
  split
  · exact .inl rfl
  · exact .inr rfl

/-- Settles O16. -/
theorem chipsFollowTheDocumentsFormula : Obligations.ChipsFollowTheDocumentsFormula := fun idx shift p _ _ =>
  ⟨chip_eq idx shift p, chip_eq_one_or_neg_one idx shift p⟩

/-- Settles O17: the shift is added to the position in both sequences. -/
theorem chipShiftRotatesTheCode : Obligations.ChipShiftRotatesTheCode := by
  intro idx shift p _ _
  have h1 : ((p + shift) % 1023 + 0) % 1023 = (p + shift) % 1023 := by omega
  have h2 : (1023 - delayRom idx + 0 + (p + shift) % 1023) % 1023 = (1023 - delayRom idx + shift + p) % 1023 := by
    omega
  rw [chip_eq, chip_eq, h1, h2]

end Sys2Proof.Machine
end

section
/-! PROOFS. The binary64 format: sign and magnitude bits, and the finite values by their magnitude bits (R17, R200;
log 10). -/

namespace Sys2Proof.Machine

/-! ### Sign and magnitude bits -/

theorem sign64_eq_decide (x : B64) : sign64 x = decide (2 ^ 63 ≤ x.toNat) := by
  have hmsb := x.msb_eq_decide
  rwa [BitVec.msb_eq_getLsbD_last] at hmsb

theorem magBits_eq_mod (x : B64) : magBits x = x.toNat % 2 ^ 63 := by
  simp [magBits]

theorem magBits_lt (x : B64) : magBits x < 2 ^ 63 := by
  rw [magBits_eq_mod]; exact Nat.mod_lt _ (by decide)

theorem toNat_withSign (neg : Bool) (bits : Nat) :
    (withSign neg bits).toNat = neg.toNat * 2 ^ 63 + bits % 2 ^ 63 := by
  rw [withSign, toNat_append_eq_add, BitVec.toNat_ofBool, BitVec.toNat_ofNat]

@[simp] theorem sign64_withSign (neg : Bool) (bits : Nat) : sign64 (withSign neg bits) = neg := by
  rw [sign64_eq_decide, toNat_withSign]
  cases neg
  · simp [Nat.mod_lt]
  · simp

theorem magBits_withSign (neg : Bool) {bits : Nat} (h : bits < 2 ^ 63) : magBits (withSign neg bits) = bits := by
  rw [magBits_eq_mod, toNat_withSign]
  cases neg <;> simp <;> omega

/-- A binary64 is its sign and its magnitude bits. -/
theorem withSign_sign64_magBits (x : B64) : withSign (sign64 x) (magBits x) = x := by
  apply BitVec.eq_of_toNat_eq
  have hlt := x.isLt
  rw [toNat_withSign, sign64_eq_decide, magBits_eq_mod]
  by_cases h : 2 ^ 63 ≤ x.toNat
  · rw [decide_eq_true h, Bool.toNat_true]; omega
  · rw [decide_eq_false h, Bool.toNat_false]; omega

theorem eq_of_sign64_magBits {x y : B64} (hs : sign64 x = sign64 y) (hm : magBits x = magBits y) : x = y := by
  rw [← withSign_sign64_magBits x, ← withSign_sign64_magBits y, hs, hm]

/-! ### The opposite sign -/

@[simp] theorem sign64_neg64 (x : B64) : sign64 (neg64 x) = !sign64 x := by
  simp [neg64, sign64]

@[simp] theorem magBits_neg64 (x : B64) : magBits (neg64 x) = magBits x := by
  have h : (0x8000000000000000#64 : B64).extractLsb' 0 63 = 0#63 := by decide
  rw [magBits, neg64, BitVec.extractLsb'_xor, h, BitVec.xor_zero, magBits]

theorem neg64_withSign (neg : Bool) {bits : Nat} (h : bits < 2 ^ 63) : neg64 (withSign neg bits) = withSign (!neg) bits :=
  eq_of_sign64_magBits (by simp) (by simp [magBits_withSign _ h])

/-! ### The finite values by their magnitude bits -/

/-- The significand of a finite magnitude. -/
def finMant (bits : Nat) : Nat := if bits < 2 ^ 52 then bits else 2 ^ 52 + bits % 2 ^ 52

/-- The exponent of a finite magnitude's last place. -/
def finExp (bits : Nat) : Int := if bits < 2 ^ 52 then -1074 else (bits / 2 ^ 52 : Nat) - 1075

theorem fields_of_magBits (x : B64) :
    (x.extractLsb' 52 11).toNat = magBits x / 2 ^ 52 ∧ (x.extractLsb' 0 52).toNat = magBits x % 2 ^ 52 := by
  rw [magBits_eq_mod, BitVec.extractLsb'_toNat, BitVec.extractLsb'_toNat, Nat.shiftRight_eq_div_pow]
  omega

/-- The value of a pattern by its magnitude bits: a finite number below those of infinity, a NaN above. -/
theorem unpack64_eq (x : B64) : unpack64 x =
    if magBits x < infBits then .fin (sign64 x) (finMant (magBits x)) (finExp (magBits x))
    else if magBits x = infBits then .inf (sign64 x) else .nan := by
  obtain ⟨hex, hfrac⟩ := fields_of_magBits x
  have hlt := magBits_lt x
  unfold unpack64
  simp only [hex, hfrac]
  unfold infBits finMant finExp sign64
  by_cases hexp : magBits x / 2 ^ 52 = 2047
  · have hge : ¬ magBits x < 0x7FF0000000000000 := by omega
    rw [if_pos hexp, if_neg hge]
    by_cases hzero : magBits x % 2 ^ 52 = 0
    · have heq : magBits x = 0x7FF0000000000000 := by omega
      rw [if_pos hzero, if_pos heq]
    · have hne : magBits x ≠ 0x7FF0000000000000 := by omega
      rw [if_neg hzero, if_neg hne]
  · have hfin : magBits x < 0x7FF0000000000000 := by omega
    rw [if_neg hexp, if_pos hfin]
    by_cases hsub : magBits x < 2 ^ 52
    · have hzero : magBits x / 2 ^ 52 = 0 := by omega
      rw [if_pos hzero, if_pos hsub, if_pos hsub, Nat.mod_eq_of_lt hsub]
    · have hpos : magBits x / 2 ^ 52 ≠ 0 := by omega
      rw [if_neg hpos, if_neg hsub, if_neg hsub]

theorem unpack64_of_lt {x : B64} (h : magBits x < infBits) :
    unpack64 x = .fin (sign64 x) (finMant (magBits x)) (finExp (magBits x)) := by
  rw [unpack64_eq, if_pos h]

theorem unpack64_of_eq {x : B64} (h : magBits x = infBits) : unpack64 x = .inf (sign64 x) := by
  rw [unpack64_eq, if_neg h.not_lt, if_pos h]

theorem unpack64_of_gt {x : B64} (h : infBits < magBits x) : unpack64 x = .nan := by
  rw [unpack64_eq, if_neg h.not_gt, if_neg h.ne']

theorem unpack64_eq_nan_iff {x : B64} : unpack64 x = .nan ↔ infBits < magBits x := by
  rw [unpack64_eq]
  split
  · simp; omega
  · split
    · simp; omega
    · simp; omega

theorem unpack64_eq_fin_iff {x : B64} {neg : Bool} {m : Nat} {e : Int} : unpack64 x = .fin neg m e ↔
    magBits x < infBits ∧ neg = sign64 x ∧ m = finMant (magBits x) ∧ e = finExp (magBits x) := by
  rw [unpack64_eq]
  split
  · simp only [Fp.fin.injEq]
    constructor
    · rintro ⟨rfl, rfl, rfl⟩; exact ⟨‹_›, rfl, rfl, rfl⟩
    · rintro ⟨-, rfl, rfl, rfl⟩; exact ⟨rfl, rfl, rfl⟩
  · constructor
    · intro h; split at h <;> cases h
    · rintro ⟨h, -⟩; exact absurd h ‹_›

theorem finMant_eq_zero_iff {bits : Nat} : finMant bits = 0 ↔ bits = 0 := by
  unfold finMant; split <;> omega

theorem infBits_lt : infBits < 2 ^ 63 := by decide

end Sys2Proof.Machine
end

section
/-! PROOFS. The preamble correlator (R51, R240 to R242). -/

namespace Sys2Proof.Machine

variable {s t : State}

/-! ### The negativity test and the symbols (R118, R240) -/

theorem isNegative_iff (x : B64) :
    isNegative x = true ↔ sign64 x = true ∧ magBits x ≠ 0 ∧ magBits x ≤ infBits := by
  have hinf : infBits ≠ 0 := by decide
  unfold isNegative
  rcases lt_trichotomy (magBits x) infBits with hfin | hinf' | hnan
  · rw [unpack64_of_lt hfin]
    simp [finMant_eq_zero_iff, hfin.le]
  · rw [unpack64_of_eq hinf']
    simp [hinf', hinf]
  · rw [unpack64_of_gt hnan]
    simp [hnan]

/-- The test of R240 on the pattern as a number: above −0, up to −∞. -/
theorem isNegative_iff_toNat (x : B64) :
    isNegative x = true ↔ 2 ^ 63 < x.toNat ∧ x.toNat ≤ 2 ^ 63 + 0x7FF0000000000000 := by
  rw [isNegative_iff, sign64_eq_decide, magBits_eq_mod, decide_eq_true_iff, infBits]
  have hlt := x.isLt
  omega

theorem Memory.memRead_lt (m : Memory) (a n : Nat) : m.memRead a n < 2 ^ (8 * n) := by
  unfold Memory.memRead
  induction n with
  | zero => simp
  | succ n ih =>
    have hbyte : (m.byte (a + n)).toNat ≤ 2 ^ 8 - 1 := by have := (m.byte (a + n)).isLt; omega
    have hterm := Nat.mul_le_mul_right (2 ^ (8 * n)) hbyte
    rw [List.range_succ, List.map_append, List.sum_append, Nat.mul_succ, Nat.pow_add]
    simp only [List.map_cons, List.map_nil, List.sum_cons, List.sum_nil, Nat.add_zero]
    omega

theorem Memory.toNat_symbol (m : Memory) (src k : Nat) : (m.symbol src k).toNat = m.memRead (src + 8 * k) 8 := by
  have hlt : m.memRead (src + 8 * k) 8 < 2 ^ 64 := m.memRead_lt _ 8
  rw [Memory.symbol, BitVec.toNat_ofNat, Nat.mod_eq_of_lt hlt]

theorem pref_eq_one_or_neg_one (b : Build) (k : Nat) : pref b k = 1 ∨ pref b k = -1 := by
  unfold pref
  split
  · exact .inl rfl
  · exact .inr rfl

/-- The range check of a legal build, whose window is never empty (R84, R241). -/
theorem State.srcOk_iff_of_legal (legal : s.build.wf = true) : s.srcOk = true ↔
    (s.arg 0).toNat % 8 = 0 ∧ (s.arg 0).toNat + 8 * (s.build.preNbits * s.build.preSpb) ≤ 2 ^ s.build.bufAddrBits := by
  obtain ⟨-, ⟨hbits, -⟩, hspb, -⟩ := s.build.wf_iff.1 legal
  have hlen : s.build.preLen ≠ 0 := (Nat.mul_pos hbits hspb).ne'
  rw [s.srcOk_iff, or_iff_right hlen, Nat.mul_comm s.build.preLen]
  rfl

/-- The score with its tests written out on numbers (R51, R240, R241). -/
theorem windowScore_eq (b : Build) (m : Memory) (src : Nat) : windowScore b m src =
    ((List.range (b.preNbits * b.preSpb)).map fun k =>
      let x := m.memRead (src + 8 * k) 8
      let r : Int := if b.prePattern.getLsbD (b.preNbits - 1 - k / b.preSpb) then 1 else -1
      if 2 ^ 63 < x ∧ x ≤ 2 ^ 63 + 0x7FF0000000000000 then -r else r).sum := by
  simp only [windowScore, scoreTerm, isNegative_iff_toNat, Memory.toNat_symbol, pref, Build.preLen]

/-- Settles O37. -/
theorem preCorrScoresTheWindow : Obligations.PreCorrScoresTheWindow := by
  intro s legal
  refine ⟨fun hok => ?_, fun hbad => ?_⟩
  · rw [exec_preCorr, if_pos ((State.srcOk_iff_of_legal legal).2 hok), windowScore_eq]
    rfl
  · rw [exec_preCorr, if_neg (fun hok => hbad ((State.srcOk_iff_of_legal legal).1 hok))]
    rfl

/-! ### The score as a sum of signs (R241, R242) -/

/-- A sum of `n` signs lies in [−n, n] and has the parity of `n`. -/
theorem sum_of_signs {f : Nat → Int} (hf : ∀ k, f k = 1 ∨ f k = -1) (n : Nat) :
    -(n : Int) ≤ ((List.range n).map f).sum ∧ ((List.range n).map f).sum ≤ n ∧
      (((List.range n).map f).sum - n) % 2 = 0 := by
  induction n with
  | zero => simp
  | succ n ih =>
    rw [List.range_succ, List.map_append, List.sum_append]
    simp only [List.map_cons, List.map_nil, List.sum_cons, List.sum_nil]
    rcases hf n with hn | hn <;> rw [hn] <;> push_cast <;> omega

theorem scoreTerm_eq_one_or_neg_one (b : Build) (x : B64) (k : Nat) :
    scoreTerm x (pref b k) = 1 ∨ scoreTerm x (pref b k) = -1 := by
  unfold scoreTerm
  rcases pref_eq_one_or_neg_one b k with h | h <;> rw [h] <;> split <;> simp

theorem windowScore_bounds (b : Build) (m : Memory) (src : Nat) :
    -(b.preLen : Int) ≤ windowScore b m src ∧ windowScore b m src ≤ b.preLen ∧
      (windowScore b m src - b.preLen) % 2 = 0 :=
  sum_of_signs (fun k => scoreTerm_eq_one_or_neg_one b (m.symbol src k) k) b.preLen

/-- A window inside BUF leaves its score in RES, as a signed number (R241). -/
theorem preCorr_score (legal : s.build.wf = true) (hok : s.srcOk = true) :
    ∃ t, exec .preCorr s = .next t ∧ t.res.toInt = windowScore s.build s.buf s.src := by
  obtain ⟨hlow, hhigh, -⟩ := windowScore_bounds s.build s.buf s.src
  have hlen := Build.preLen_lt legal
  refine ⟨_, (exec_preCorr s).trans (by rw [if_pos hok]), ?_⟩
  rw [State.setRes_res, BitVec.toInt_ofInt]
  exact Int.bmod_eq_of_le (by norm_num; omega) (by norm_num; omega)

/-- Settles O38. -/
theorem scoreIsBoundedWithParity : Obligations.ScoreIsBoundedWithParity := by
  intro s legal hok
  obtain ⟨t, ht, hscore⟩ := preCorr_score legal hok
  exact ⟨t, ht, by rw [hscore]; exact windowScore_bounds _ _ _⟩

/-- The score of a window whose terms are known. -/
theorem windowScore_congr_terms {b : Build} {m : Memory} {src : Nat} {f : Nat → Int}
    (h : ∀ k, k < b.preLen → scoreTerm (m.symbol src k) (pref b k) = f k) :
    windowScore b m src = ((List.range b.preLen).map f).sum := by
  unfold windowScore
  rw [List.map_congr_left fun k hk => h k (List.mem_range.1 hk)]

theorem sum_map_range_const (n : Nat) (c : Int) : ((List.range n).map fun _ => c).sum = n * c := by
  simp

/-- Settles O39: the terms of each of the three windows are +1, −1 and the reference. -/
theorem matchingWindowScoresFull : Obligations.MatchingWindowScoresFull := by
  intro s legal hok
  obtain ⟨t, ht, hscore⟩ := preCorr_score legal hok
  have hone : isNegative 0x3FF0000000000000#64 = false := by decide
  have hneg : isNegative 0xBFF0000000000000#64 = true := by decide
  refine ⟨t, ht, fun hwin => ?_, fun hwin => ?_, fun hwin => ?_⟩
  · rw [hscore, windowScore_congr_terms (f := fun _ => 1) fun k hk => ?_, sum_map_range_const, mul_one]
    rw [hwin k hk, scoreTerm]
    rcases pref_eq_one_or_neg_one s.build k with h | h <;> simp [h, hone, hneg]
  · rw [hscore, windowScore_congr_terms (f := fun _ => -1) fun k hk => ?_, sum_map_range_const, mul_neg_one]
    rw [hwin k hk, scoreTerm]
    rcases pref_eq_one_or_neg_one s.build k with h | h <;> simp [h, hone, hneg]
  · rw [hscore, windowScore_congr_terms fun k hk => ?_]
    have hnot : isNegative (s.buf.symbol s.src k) = false := by
      rw [← Bool.not_eq_true, isNegative_iff]
      rintro ⟨hsign, hzero, hinf⟩
      rcases hwin k hk with h | h | h
      · simp [hsign] at h
      · exact hzero h
      · exact absurd (unpack64_eq_nan_iff.1 h) hinf.not_gt
    rw [scoreTerm, hnot, if_neg Bool.false_ne_true]

end Sys2Proof.Machine
end

section
/-! PROOFS. The two shift registers: the working sequences and their closed form (R48, R144, R145), their period and
the shift-and-add property of a sequence of full period. -/

namespace Sys2Proof.Machine

/-! ### A register and its sequence (R144) -/

/-- One shift of a register with feedback `fb`. -/
def lfsrStep (fb : BitVec 10 → Bool) (g : BitVec 10) : BitVec 10 := shiftIn (fb g) g

/-- The register after `n` shifts from all-true. -/
def lfsr (fb : BitVec 10 → Bool) (n : Nat) : BitVec 10 := (lfsrStep fb)^[n] 0x3FF#10

/-- The register's output sequence. -/
def lfsrBit (fb : BitVec 10 → Bool) (n : Nat) : Bool := (lfsr fb n).getLsbD 0

variable {fb : BitVec 10 → Bool}

theorem lfsr_zero (fb : BitVec 10 → Bool) : lfsr fb 0 = 0x3FF#10 := rfl

theorem lfsr_succ (fb : BitVec 10 → Bool) (n : Nat) : lfsr fb (n + 1) = lfsrStep fb (lfsr fb n) :=
  Function.iterate_succ_apply' _ _ _

theorem lfsr_add (fb : BitVec 10 → Bool) (m n : Nat) : lfsr fb (m + n) = (lfsrStep fb)^[m] (lfsr fb n) :=
  Function.iterate_add_apply _ _ _ _

theorem getLsbD_shiftIn (f : Bool) (g : BitVec 10) {k : Nat} (hk : k < 9) :
    (shiftIn f g).getLsbD k = g.getLsbD (k + 1) := by
  rw [shiftIn, BitVec.getLsbD_append, BitVec.getLsbD_extractLsb', if_pos hk, decide_eq_true hk, Bool.true_and,
    Nat.add_comm 1]

theorem getLsbD_shiftIn_nine (f : Bool) (g : BitVec 10) : (shiftIn f g).getLsbD 9 = f := by
  rw [shiftIn, BitVec.getLsbD_append, if_neg (by decide)]
  simp

/-- Position `k` of the register is output `k` shifts later (R144). -/
theorem getLsbD_lfsr (fb : BitVec 10 → Bool) (n : Nat) {k : Nat} (hk : k ≤ 9) :
    (lfsr fb n).getLsbD k = lfsrBit fb (n + k) := by
  induction k generalizing n with
  | zero => rfl
  | succ k ih =>
    rw [← getLsbD_shiftIn (fb (lfsr fb n)) _ (by omega : k < 9), ← lfsrStep, ← lfsr_succ, ih (n + 1) (by omega),
      Nat.add_right_comm, Nat.add_assoc]

/-- The tenth output from now is the feedback (R144). -/
theorem lfsrBit_add_ten (fb : BitVec 10 → Bool) (n : Nat) : lfsrBit fb (n + 10) = fb (lfsr fb n) := by
  rw [show n + 10 = n + 1 + 9 from rfl, ← getLsbD_lfsr fb (n + 1) le_rfl, lfsr_succ, lfsrStep, getLsbD_shiftIn_nine]

theorem lfsrBit_of_le_nine (fb : BitVec 10 → Bool) {n : Nat} (hn : n ≤ 9) : lfsrBit fb n = true := by
  rw [← Nat.zero_add n, ← getLsbD_lfsr fb 0 hn, lfsr_zero]
  interval_cases n <;> rfl

/-! ### The working sequences (R145) -/

theorem getLsbD_setEntry (v : BitVec 1023) {n : Nat} (hn : n < 1023) (b : Bool) (j : Nat) :
    (setEntry v n b).getLsbD j = if j = n then b else v.getLsbD j := by
  unfold setEntry
  by_cases hj : j = n
  · subst hj
    cases b <;> simp [hn]
  · have hne : n ≠ j := fun h => hj h.symm
    cases b <;> simp [hj, hne]
    intro h; exact BitVec.lt_of_getLsbD h

/-- Iterations `n` to `n + k − 1` write entries `n` to `n + k − 1` with the registers' outputs and leave the registers
`k` shifts on. -/
theorem genIterate_eq (k n : Nat) (w : GenWork) (hk : n + k ≤ 1023) :
    (genIterate k n w).g1 = (lfsrStep feedback1)^[k] w.g1 ∧ (genIterate k n w).g2 = (lfsrStep feedback2)^[k] w.g2 ∧
      (∀ j, (genIterate k n w).g1seq.getLsbD j =
        if n ≤ j ∧ j < n + k then ((lfsrStep feedback1)^[j - n] w.g1).getLsbD 0 else w.g1seq.getLsbD j) ∧
      ∀ j, (genIterate k n w).g2seq.getLsbD j =
        if n ≤ j ∧ j < n + k then ((lfsrStep feedback2)^[j - n] w.g2).getLsbD 0 else w.g2seq.getLsbD j := by
  induction k generalizing n w with
  | zero =>
    refine ⟨rfl, rfl, fun j => ?_, fun j => ?_⟩ <;> rw [if_neg (by omega)] <;> rfl
  | succ k ih =>
    obtain ⟨h1, h2, hseq1, hseq2⟩ := ih (n + 1) (genStep n w) (by omega)
    have entry : ∀ (f : BitVec 10 → BitVec 10) (g : BitVec 10) (v : BitVec 1023) (j : Nat),
        (if n + 1 ≤ j ∧ j < n + 1 + k then (f^[j - (n + 1)] (f g)).getLsbD 0
          else (setEntry v n (g.getLsbD 0)).getLsbD j) =
        if n ≤ j ∧ j < n + (k + 1) then (f^[j - n] g).getLsbD 0 else v.getLsbD j := by
      intro f g v j
      rw [getLsbD_setEntry v (by omega)]
      rcases lt_trichotomy j n with hj | rfl | hj
      · rw [if_neg (by omega), if_neg (by omega), if_neg (by omega)]
      · rw [if_neg (by omega), if_pos rfl, if_pos (by omega), Nat.sub_self]; rfl
      · have hsub : j - n = j - (n + 1) + 1 := by omega
        rw [hsub, Function.iterate_succ_apply, if_neg (by omega : j ≠ n)]
        exact if_congr (by omega) rfl rfl
    refine ⟨?_, ?_, fun j => ?_, fun j => ?_⟩
    · rw [Function.iterate_succ_apply]; exact h1
    · rw [Function.iterate_succ_apply]; exact h2
    · exact (hseq1 j).trans (entry (lfsrStep feedback1) w.g1 w.g1seq j)
    · exact (hseq2 j).trans (entry (lfsrStep feedback2) w.g2 w.g2seq j)

/-- From all-true registers the 1023 iterations leave the registers' outputs in the sequences, whatever they held. -/
theorem genIterate_of_all_true {w : GenWork} (h1 : w.g1 = 0x3FF#10) (h2 : w.g2 = 0x3FF#10) :
    (genIterate 1023 0 w).g1 = lfsr feedback1 1023 ∧ (genIterate 1023 0 w).g2 = lfsr feedback2 1023 ∧
      ∀ n, n < 1023 → (genIterate 1023 0 w).g1seq.getLsbD n = lfsrBit feedback1 n ∧
        (genIterate 1023 0 w).g2seq.getLsbD n = lfsrBit feedback2 n := by
  obtain ⟨hg1, hg2, hseq1, hseq2⟩ := genIterate_eq 1023 0 w (by decide)
  rw [h1] at hg1 hseq1
  rw [h2] at hg2 hseq2
  refine ⟨hg1, hg2, fun n hn => ⟨?_, ?_⟩⟩
  · rw [hseq1, if_pos (by omega)]; rfl
  · rw [hseq2, if_pos (by omega)]; rfl

/-- The register is all-true again after 1023 shifts, and not before. -/
def FullPeriod (fb : BitVec 10 → Bool) : Prop :=
  lfsr fb 1023 = 0x3FF#10 ∧ ∀ k, 0 < k → k < 1023 → lfsr fb k ≠ 0x3FF#10

/-- `fuel` shifts from `g`, no register among them all-true, and the one after them all-true. -/
def firstReturn (fb : BitVec 10 → Bool) (fuel : Nat) (g : BitVec 10) : Bool :=
  match fuel with
  | 0 => decide (g = 0x3FF#10)
  | fuel + 1 => decide (g ≠ 0x3FF#10) && firstReturn fb fuel (lfsrStep fb g)

theorem firstReturn_spec {fuel n : Nat} (h : firstReturn fb fuel (lfsr fb n) = true) :
    lfsr fb (n + fuel) = 0x3FF#10 ∧ ∀ k, n ≤ k → k < n + fuel → lfsr fb k ≠ 0x3FF#10 := by
  induction fuel generalizing n with
  | zero => exact ⟨of_decide_eq_true h, fun k hlow hhigh => by omega⟩
  | succ fuel ih =>
    rw [firstReturn, Bool.and_eq_true, decide_eq_true_iff, ← lfsr_succ] at h
    obtain ⟨hend, hinner⟩ := ih h.2
    refine ⟨by rw [← hend, Nat.add_right_comm, Nat.add_assoc], fun k hlow hhigh => ?_⟩
    rcases Nat.eq_or_lt_of_le hlow with rfl | hlt
    · exact h.1
    · exact hinner k hlt (by omega)

theorem fullPeriod_of_firstReturn (h : firstReturn fb 1022 (lfsr fb 1) = true) : FullPeriod fb := by
  obtain ⟨hend, hinner⟩ := firstReturn_spec h
  exact ⟨hend, fun k hpos hlt => hinner k hpos (by omega)⟩

theorem fullPeriod_feedback1 : FullPeriod feedback1 := fullPeriod_of_firstReturn (by decide +kernel)

theorem fullPeriod_feedback2 : FullPeriod feedback2 := fullPeriod_of_firstReturn (by decide +kernel)

theorem lfsrBit_feedback1 (n : Nat) :
    lfsrBit feedback1 (n + 10) = (lfsrBit feedback1 (n + 7) ^^ lfsrBit feedback1 n) := by
  rw [lfsrBit_add_ten, feedback1, getLsbD_lfsr _ _ (by decide), getLsbD_lfsr _ _ (by decide)]
  rfl

theorem lfsrBit_feedback2 (n : Nat) :
    lfsrBit feedback2 (n + 10) = (lfsrBit feedback2 (n + 8) ^^ lfsrBit feedback2 (n + 7) ^^ lfsrBit feedback2 (n + 4) ^^
      lfsrBit feedback2 (n + 2) ^^ lfsrBit feedback2 (n + 1) ^^ lfsrBit feedback2 n) := by
  rw [lfsrBit_add_ten, feedback2, getLsbD_lfsr _ _ (by decide), getLsbD_lfsr _ _ (by decide),
    getLsbD_lfsr _ _ (by decide), getLsbD_lfsr _ _ (by decide), getLsbD_lfsr _ _ (by decide),
    getLsbD_lfsr _ _ (by decide)]
  rfl

/-- Settles O15: the sequences are the registers' outputs, each the feedback of the ten before it, and both registers
have the period 1023. -/
theorem workingSequencesHaveTheClosedForm : Obligations.WorkingSequencesHaveTheClosedForm := by
  intro w h1 h2
  obtain ⟨hg1, hg2, hseq⟩ := genIterate_of_all_true h1 h2
  have seq1 : ∀ n, n ≤ 1022 → (genIterate 1023 0 w).g1seq.getLsbD n = lfsrBit feedback1 n := fun n hn =>
    (hseq n (by omega)).1
  have seq2 : ∀ n, n ≤ 1022 → (genIterate 1023 0 w).g2seq.getLsbD n = lfsrBit feedback2 n := fun n hn =>
    (hseq n (by omega)).2
  refine ⟨fun n hn => ⟨?_, ?_⟩, fun n hlow hhigh => ?_, hg1.trans fullPeriod_feedback1.1, hg2.trans fullPeriod_feedback2.1⟩
  · rw [seq1 n (by omega), lfsrBit_of_le_nine _ hn]
  · rw [seq2 n (by omega), lfsrBit_of_le_nine _ hn]
  · obtain ⟨m, rfl⟩ := Nat.exists_eq_add_of_le' hlow
    simp only [show m + 10 - 3 = m + 7 from rfl, show m + 10 - 10 = m from rfl, show m + 10 - 2 = m + 8 from rfl,
      show m + 10 - 6 = m + 4 from rfl, show m + 10 - 8 = m + 2 from rfl, show m + 10 - 9 = m + 1 from rfl]
    rw [seq1 _ (by omega), seq1 _ (by omega), seq1 _ (by omega), seq2 _ (by omega), seq2 _ (by omega),
      seq2 _ (by omega), seq2 _ (by omega), seq2 _ (by omega), seq2 _ (by omega), seq2 _ (by omega)]
    exact ⟨lfsrBit_feedback1 m, lfsrBit_feedback2 m⟩

end Sys2Proof.Machine
end

section
/-! PROOFS. The codes correlate as Gold codes (R155): a sum of two shifts of one working sequence is a shift of it, so
every correlation of two codes is a cross-correlation of the working sequences at some lag, or a sequence's own sum. -/

namespace Sys2Proof.Machine

open Sys2Proof.Claims Finset

variable {fb : BitVec 10 → Bool}

/-! ### Period and shift-and-add -/

theorem lfsrBit_add_period (h : FullPeriod fb) (n : Nat) : lfsrBit fb (n + 1023) = lfsrBit fb n := by
  rw [lfsrBit, lfsr_add, h.1]; rfl

theorem lfsrBit_add_mul_period (h : FullPeriod fb) (n k : Nat) : lfsrBit fb (n + 1023 * k) = lfsrBit fb n := by
  induction k with
  | zero => rfl
  | succ k ih => rw [Nat.mul_succ, ← Nat.add_assoc, lfsrBit_add_period h, ih]

theorem lfsrBit_congr_mod (h : FullPeriod fb) {m n : Nat} (hmod : m % 1023 = n % 1023) :
    lfsrBit fb m = lfsrBit fb n := by
  rw [← Nat.mod_add_div m 1023, ← Nat.mod_add_div n 1023, lfsrBit_add_mul_period h, lfsrBit_add_mul_period h, hmod]

/-- A feedback that taps some positions is additive. -/
def Additive (fb : BitVec 10 → Bool) : Prop := ∀ x y, fb (x ^^^ y) = (fb x ^^ fb y)

theorem additive_feedback1 : Additive feedback1 := by
  intro x y
  simp only [feedback1, BitVec.getLsbD_xor, Bool.xor_assoc, Bool.xor_left_comm]

theorem additive_feedback2 : Additive feedback2 := by
  intro x y
  simp only [feedback2, BitVec.getLsbD_xor, Bool.xor_assoc, Bool.xor_left_comm]

theorem shiftIn_xor (f f' : Bool) (g g' : BitVec 10) : shiftIn (f ^^ f') (g ^^^ g') = shiftIn f g ^^^ shiftIn f' g' := by
  apply BitVec.eq_of_getLsbD_eq
  intro k hk
  rw [BitVec.getLsbD_xor]
  rcases Nat.lt_or_ge k 9 with h | h
  · simp only [getLsbD_shiftIn _ _ h, BitVec.getLsbD_xor]
  · obtain rfl : k = 9 := by omega
    simp only [getLsbD_shiftIn_nine]

theorem iterate_lfsrStep_xor (hadd : Additive fb) (n : Nat) (x y : BitVec 10) :
    (lfsrStep fb)^[n] (x ^^^ y) = (lfsrStep fb)^[n] x ^^^ (lfsrStep fb)^[n] y := by
  induction n generalizing x y with
  | zero => rfl
  | succ n ih =>
    rw [Function.iterate_succ_apply, lfsrStep, hadd, shiftIn_xor]
    exact ih _ _

theorem lfsr_ne_zero (h : FullPeriod fb) (hadd : Additive fb) {n : Nat} (hn : n < 1023) : lfsr fb n ≠ 0#10 := by
  intro hzero
  have hstay : (lfsrStep fb)^[1023 - n] 0#10 = 0#10 := by
    rw [← BitVec.xor_self (x := 0#10), iterate_lfsrStep_xor hadd, BitVec.xor_self, BitVec.xor_self]
  have hend : lfsr fb (1023 - n + n) = 0x3FF#10 := by rw [Nat.sub_add_cancel hn.le]; exact h.1
  rw [lfsr_add, hzero, hstay] at hend
  exact absurd hend (by decide)

theorem lfsr_injective (h : FullPeriod fb) {m n : Nat} (hm : m < 1023) (hn : n < 1023) (heq : lfsr fb m = lfsr fb n) :
    m = n := by
  have ordered : ∀ {i j : Nat}, i < j → j < 1023 → lfsr fb i ≠ lfsr fb j := by
    intro i j hij hj hsame
    apply h.2 (1023 - j + i) (by omega) (by omega)
    rw [lfsr_add, hsame, ← lfsr_add, Nat.sub_add_cancel hj.le, h.1]
  rcases lt_trichotomy m n with hlt | rfl | hlt
  · exact absurd heq (ordered hlt hn)
  · rfl
  · exact absurd heq.symm (ordered hlt hm)

/-- A register of full period takes every value but zero. -/
theorem exists_lfsr_eq (h : FullPeriod fb) (hadd : Additive fb) {v : BitVec 10} (hv : v ≠ 0#10) :
    ∃ z, lfsr fb z = v := by
  have hpos : ∀ x : BitVec 10, x ≠ 0#10 → x.toNat ∈ Ico 1 1024 := fun x hx => by
    have hne : x.toNat ≠ 0 := fun hzero => hx (BitVec.eq_of_toNat_eq hzero)
    exact mem_Ico.2 ⟨by omega, x.isLt⟩
  have hsurj := surjOn_of_injOn_of_card_le (s := range 1023) (t := Ico 1 1024) (fun n => (lfsr fb n).toNat)
    (fun n hn => hpos _ (lfsr_ne_zero h hadd (mem_range.1 hn)))
    (fun m hm n hn heq => lfsr_injective h (mem_range.1 hm) (mem_range.1 hn) (BitVec.eq_of_toNat_eq heq)) (by simp)
  obtain ⟨z, -, hz⟩ := hsurj (hpos v hv)
  exact ⟨z, BitVec.eq_of_toNat_eq hz⟩

/-- The sum of two different shifts of a sequence of full period is a shift of it. -/
theorem exists_shift_eq_xor (h : FullPeriod fb) (hadd : Additive fb) {a b : Nat} (hab : a % 1023 ≠ b % 1023) :
    ∃ z, ∀ p, (lfsrBit fb (p + a) ^^ lfsrBit fb (p + b)) = lfsrBit fb (p + z) := by
  have hreg : ∀ n, lfsr fb n = lfsr fb (n % 1023) := fun n => by
    have hstep : ∀ k, (lfsrStep fb)^[1023 * k] 0x3FF#10 = 0x3FF#10 := fun k => by
      rw [Function.iterate_mul]
      exact Function.iterate_fixed h.1 k
    conv_lhs => rw [← Nat.mod_add_div n 1023, lfsr_add, lfsr, hstep]
    rfl
  have hne : lfsr fb a ^^^ lfsr fb b ≠ 0#10 := fun hzero => by
    rw [BitVec.xor_eq_zero_iff, hreg a, hreg b] at hzero
    exact hab (lfsr_injective h (Nat.mod_lt _ (by decide)) (Nat.mod_lt _ (by decide)) hzero)
  obtain ⟨z, hz⟩ := exists_lfsr_eq h hadd hne
  refine ⟨z, fun p => ?_⟩
  rw [lfsrBit, lfsrBit, lfsrBit, lfsr_add, lfsr_add, lfsr_add, hz, iterate_lfsrStep_xor hadd, BitVec.getLsbD_xor]

/-! ### Signs and sums over a period -/

/-- A bit as a sign: +1 for false. -/
def bitSign (b : Bool) : Int := if b then -1 else 1

theorem bitSign_xor (a b : Bool) : bitSign (a ^^ b) = bitSign a * bitSign b := by
  cases a <;> cases b <;> rfl

theorem bitSign_eq (b : Bool) : bitSign b = 1 - 2 * (b.toNat : Int) := by
  cases b <;> rfl

/-- A sum over one period does not depend on where the period begins. -/
theorem sum_period_shift {N : Nat} {f : Nat → Int} (hf : ∀ n, f (n + N) = f n) (z : Nat) :
    ∑ p ∈ range N, f (p + z) = ∑ p ∈ range N, f p := by
  induction z with
  | zero => rfl
  | succ z ih =>
    have hfirst := sum_range_succ' (fun p => f (p + z)) N
    have hlast := sum_range_succ (fun p => f (p + z)) N
    have hper : f (N + z) = f (0 + z) := by rw [Nat.add_comm, hf, Nat.zero_add]
    have hnext : ∀ p, f (p + 1 + z) = f (p + (z + 1)) := fun p => by rw [Nat.add_assoc, Nat.add_comm 1]
    simp only [hnext] at hfirst
    rw [← ih]
    linarith

/-- The cross-correlation of the working sequences at lag `y`. -/
def crossSum (y : Nat) : Int := ∑ p ∈ range 1023, bitSign (lfsrBit feedback1 p ^^ lfsrBit feedback2 (p + y))

theorem sum_shifted_pair (z z' : Nat) :
    ∑ p ∈ range 1023, bitSign (lfsrBit feedback1 (p + z) ^^ lfsrBit feedback2 (p + z')) =
      crossSum ((z' + 1022 * z) % 1023) := by
  have hlag : ∀ p, lfsrBit feedback2 (p + z') = lfsrBit feedback2 (p + z + (z' + 1022 * z) % 1023) := fun p =>
    lfsrBit_congr_mod fullPeriod_feedback2 (by omega)
  have hper : ∀ n, bitSign (lfsrBit feedback1 (n + 1023) ^^ lfsrBit feedback2 (n + 1023 + (z' + 1022 * z) % 1023)) =
      bitSign (lfsrBit feedback1 n ^^ lfsrBit feedback2 (n + (z' + 1022 * z) % 1023)) := fun n => by
    rw [lfsrBit_add_period fullPeriod_feedback1, Nat.add_right_comm n 1023, lfsrBit_add_period fullPeriod_feedback2]
  refine (sum_congr rfl fun p _ => by rw [hlag p]).trans (sum_period_shift (N := 1023)
    (f := fun n => bitSign (lfsrBit feedback1 n ^^ lfsrBit feedback2 (n + (z' + 1022 * z) % 1023))) hper z)

theorem sum_shifted (h : FullPeriod fb) (z : Nat) :
    ∑ p ∈ range 1023, bitSign (lfsrBit fb (p + z)) = ∑ p ∈ range 1023, bitSign (lfsrBit fb p) :=
  sum_period_shift (N := 1023) (f := fun n => bitSign (lfsrBit fb n)) (fun n => by rw [lfsrBit_add_period h]) z

/-! ### The cross-correlation at every lag, from the digits of one product -/

/-- `k` outputs from the register `g` on as the digits of a number, the first one the lowest. -/
def packUp (fb : BitVec 10 → Bool) (k : Nat) (g : BitVec 10) : Nat :=
  match k with
  | 0 => 0
  | k + 1 => (g.getLsbD 0).toNat + 2048 * packUp fb k (lfsrStep fb g)

/-- The same with the first output the highest digit, below the digits of `acc`. -/
def packDown (fb : BitVec 10 → Bool) (k : Nat) (g : BitVec 10) (acc : Nat) : Nat :=
  match k with
  | 0 => acc
  | k + 1 => packDown fb k (lfsrStep fb g) (acc * 2048 + (g.getLsbD 0).toNat)

/-- The number of ones among `k` outputs. -/
def countOnes (fb : BitVec 10 → Bool) (k : Nat) (g : BitVec 10) : Nat :=
  match k with
  | 0 => 0
  | k + 1 => (g.getLsbD 0).toNat + countOnes fb k (lfsrStep fb g)

theorem packUp_eq (k n : Nat) :
    packUp fb k (lfsr fb n) = ∑ i ∈ range k, (lfsrBit fb (n + i)).toNat * 2048 ^ i := by
  induction k generalizing n with
  | zero => rfl
  | succ k ih =>
    rw [packUp, ← lfsr_succ, ih, sum_range_succ', mul_sum, Nat.add_comm]
    simp only [pow_zero, mul_one, pow_succ]
    refine congrArg₂ _ (sum_congr rfl fun i _ => ?_) rfl
    rw [Nat.add_assoc n 1, Nat.add_comm 1]
    ring

theorem packDown_eq (k n acc : Nat) : packDown fb k (lfsr fb n) acc =
    acc * 2048 ^ k + ∑ i ∈ range k, (lfsrBit fb (n + i)).toNat * 2048 ^ (k - 1 - i) := by
  induction k generalizing n acc with
  | zero => simp [packDown]
  | succ k ih =>
    rw [packDown, ← lfsr_succ, ih, sum_range_succ']
    have hterm : ∀ i ∈ range k, (lfsrBit fb (n + 1 + i)).toNat * 2048 ^ (k - 1 - i) =
        (lfsrBit fb (n + (i + 1))).toNat * 2048 ^ (k + 1 - 1 - (i + 1)) := fun i hi => by
      rw [Nat.add_assoc n 1, Nat.add_comm 1, show k + 1 - 1 - (i + 1) = k - 1 - i by omega]
    rw [sum_congr rfl hterm]
    simp only [Nat.add_sub_cancel, Nat.sub_zero, Nat.add_zero, pow_succ, lfsrBit]
    ring

theorem countOnes_eq (k n : Nat) : countOnes fb k (lfsr fb n) = ∑ i ∈ range k, (lfsrBit fb (n + i)).toNat := by
  induction k generalizing n with
  | zero => rfl
  | succ k ih =>
    rw [countOnes, ← lfsr_succ, ih, sum_range_succ', Nat.add_comm]
    refine congrArg₂ _ (sum_congr rfl fun i _ => ?_) rfl
    rw [Nat.add_assoc n 1, Nat.add_comm 1]

open Polynomial in
/-- The digits of a polynomial's value are its coefficients, where none of them carries. -/
theorem digit_eval_eq_coeff {p : ℕ[X]} {B : Nat} (hp : ∀ m, p.coeff m < B) (m : Nat) :
    p.eval B / B ^ m % B = p.coeff m := by
  have hsplit : ∀ q : ℕ[X], q.eval B = q.divX.eval B * B + q.coeff 0 := fun q => by
    conv_lhs => rw [← divX_mul_X_add q]
    simp
  have hB : 0 < B := (Nat.zero_le _).trans_lt (hp 0)
  induction m generalizing p with
  | zero => rw [hsplit, pow_zero, Nat.div_one, Nat.mul_add_mod_of_lt (hp 0)]
  | succ m ih =>
    have hdiv : p.eval B / B = p.divX.eval B := by
      rw [hsplit, Nat.mul_comm, Nat.mul_add_div hB, Nat.div_eq_of_lt (hp 0), Nat.add_zero]
    rw [pow_succ', ← Nat.div_div_eq_div_mul, hdiv, ih (p := p.divX) fun k => by rw [coeff_divX]; exact hp _, coeff_divX]


open Polynomial in
/-- `M` entries of working sequence 1 downwards times `N` entries of working sequence 2 upwards, as a polynomial. -/
noncomputable def crossPoly (M N : Nat) : ℕ[X] := ∑ i ∈ range M, C (lfsrBit feedback1 i).toNat *
  (∑ j ∈ range N, C (lfsrBit feedback2 j).toNat * X ^ j) * X ^ (M - 1 - i)

/-- The value of `crossPoly` at 2048, as a number the kernel computes. -/
def crossNumber (M N : Nat) : Nat := packDown feedback1 M 0x3FF#10 0 * packUp feedback2 N 0x3FF#10

theorem eval_crossPoly (M N : Nat) : (crossPoly M N).eval 2048 = crossNumber M N := by
  have hdown := packDown_eq (fb := feedback1) M 0 0
  have hup := packUp_eq (fb := feedback2) N 0
  rw [lfsr_zero] at hdown hup
  rw [crossNumber, hdown, hup, crossPoly, Nat.zero_mul, Nat.zero_add, sum_mul, Polynomial.eval_finsetSum]
  refine sum_congr rfl fun i _ => ?_
  simp only [Polynomial.eval_mul, Polynomial.eval_finsetSum, Polynomial.eval_C, Polynomial.eval_pow, Polynomial.eval_X,
    Nat.zero_add]
  ring

theorem coeff_crossPoly (M N m : Nat) : (crossPoly M N).coeff m = ∑ i ∈ range M,
    if M - 1 - i ≤ m then (lfsrBit feedback1 i).toNat *
      (if m - (M - 1 - i) < N then (lfsrBit feedback2 (m - (M - 1 - i))).toNat else 0) else 0 := by
  rw [crossPoly, Polynomial.finsetSum_coeff]
  refine sum_congr rfl fun i _ => ?_
  rw [Polynomial.coeff_mul_X_pow']
  refine if_congr Iff.rfl ?_ rfl
  rw [Polynomial.coeff_C_mul, Polynomial.finsetSum_coeff]
  simp only [Polynomial.coeff_C_mul_X_pow, sum_ite_eq, mem_range]

theorem coeff_crossPoly_le (M N m : Nat) : (crossPoly M N).coeff m ≤ M := by
  rw [coeff_crossPoly]
  refine (sum_le_card_nsmul (range M) _ 1 fun i _ => ?_).trans (by simp)
  have h1 := Bool.toNat_le (lfsrBit feedback1 i)
  have h2 := Bool.toNat_le (lfsrBit feedback2 (m - (M - 1 - i)))
  split
  · split
    · exact Nat.mul_le_mul h1 h2
    · simp
  · simp

/-- The number of positions at which both working sequences are true, the second shifted by `y`. -/
theorem coincidences_eq_digit {y : Nat} (hy : y ≤ 1022) :
    ∑ i ∈ range 1023, (lfsrBit feedback1 i).toNat * (lfsrBit feedback2 (i + y)).toNat =
      crossNumber 1023 2045 / 2048 ^ (1022 + y) % 2048 := by
  have hcarry : ∀ m, (crossPoly 1023 2045).coeff m < 2048 := fun m => (coeff_crossPoly_le _ _ m).trans_lt (by decide)
  rw [← eval_crossPoly, digit_eval_eq_coeff hcarry, coeff_crossPoly]
  refine sum_congr rfl fun i hi => ?_
  have hlt := mem_range.1 hi
  rw [if_pos (by omega), if_pos (by omega), show 1022 + y - (1023 - 1 - i) = i + y by omega]

theorem countOnes_all_true (fb : BitVec 10 → Bool) (k : Nat) :
    countOnes fb k 0x3FF#10 = ∑ i ∈ range k, (lfsrBit fb i).toNat := by
  rw [← lfsr_zero fb, countOnes_eq]
  simp only [Nat.zero_add]

theorem sum_toNat_lfsrBit_feedback1 : ∑ i ∈ range 1023, (lfsrBit feedback1 i).toNat = 512 :=
  (countOnes_all_true feedback1 1023).symm.trans (by decide +kernel)

theorem sum_toNat_lfsrBit_feedback2 : ∑ i ∈ range 1023, (lfsrBit feedback2 i).toNat = 512 :=
  (countOnes_all_true feedback2 1023).symm.trans (by decide +kernel)

/-- Every coincidence count is one of three, and at the lags of the delays it is 256. -/
theorem digits_crossNumber :
    (∀ y < 1023, crossNumber 1023 2045 / 2048 ^ (1022 + y) % 2048 = 240 ∨
      crossNumber 1023 2045 / 2048 ^ (1022 + y) % 2048 = 256 ∨
      crossNumber 1023 2045 / 2048 ^ (1022 + y) % 2048 = 272) ∧
    ∀ idx < 51, crossNumber 1023 2045 / 2048 ^ (1022 + (1023 - delayRom idx)) % 2048 = 256 := by
  decide +kernel

/-! ### The correlations (R155) -/

/-- The sum of signs of a sequence with 512 ones. -/
theorem sum_bitSign {u : Nat → Bool} (h : ∑ i ∈ range 1023, (u i).toNat = 512) :
    ∑ i ∈ range 1023, bitSign (u i) = -1 := by
  have hcast : ∑ i ∈ range 1023, ((u i).toNat : Int) = 512 := by exact_mod_cast h
  simp only [bitSign_eq, sum_sub_distrib, ← mul_sum, hcast, sum_const, card_range]
  norm_num

theorem sum_lfsrBit_feedback2_shifted (y : Nat) : ∑ i ∈ range 1023, (lfsrBit feedback2 (i + y)).toNat = 512 := by
  have hshift := sum_period_shift (N := 1023) (f := fun n => ((lfsrBit feedback2 n).toNat : Int))
    (fun n => by rw [lfsrBit_add_period fullPeriod_feedback2]) y
  rw [← sum_toNat_lfsrBit_feedback2]
  exact_mod_cast hshift

/-- The cross-correlation by the number of coincidences. -/
theorem crossSum_eq {y : Nat} (hy : y ≤ 1022) :
    crossSum y = 4 * ((crossNumber 1023 2045 / 2048 ^ (1022 + y) % 2048 : Nat) : Int) - 1025 := by
  have h1 : ∑ i ∈ range 1023, ((lfsrBit feedback1 i).toNat : Int) = 512 := by exact_mod_cast sum_toNat_lfsrBit_feedback1
  have h2 : ∑ i ∈ range 1023, ((lfsrBit feedback2 (i + y)).toNat : Int) = 512 := by
    exact_mod_cast sum_lfsrBit_feedback2_shifted y
  have hterm : ∀ i, bitSign (lfsrBit feedback1 i ^^ lfsrBit feedback2 (i + y)) =
      1 - 2 * ((lfsrBit feedback1 i).toNat : Int) - 2 * ((lfsrBit feedback2 (i + y)).toNat : Int) +
        4 * (((lfsrBit feedback1 i).toNat : Int) * ((lfsrBit feedback2 (i + y)).toNat : Int)) := fun i => by
    rw [bitSign_xor, bitSign_eq, bitSign_eq]
    ring
  rw [crossSum, ← coincidences_eq_digit hy, sum_congr rfl fun i _ => hterm i, sum_add_distrib, sum_sub_distrib,
    sum_sub_distrib, ← mul_sum, ← mul_sum, ← mul_sum, h1, h2, sum_const, card_range]
  push_cast
  ring

theorem crossSum_cases {y : Nat} (hy : y ≤ 1022) : crossSum y = -65 ∨ crossSum y = -1 ∨ crossSum y = 63 := by
  rw [crossSum_eq hy]
  rcases digits_crossNumber.1 y (by omega) with h | h | h <;> rw [h] <;> norm_num

/-- Where the code's chip `p` is read in working sequence 2 (R147). -/
def codeLag (idx : Nat) : Nat := 1023 - delayRom idx

/-- A chip is the opposite of the sign of its two entries' sum (R148). -/
theorem chip_eq_neg_bitSign (idx p : Nat) :
    chip idx 0 p = -bitSign (lfsrBit feedback1 p ^^ lfsrBit feedback2 (p + codeLag idx)) := by
  obtain ⟨-, -, hseq⟩ := genIterate_of_all_true (w := genStart) rfl rfl
  have h1 : generated.g1seq.getLsbD ((p + 0) % 1023) = lfsrBit feedback1 p := by
    rw [generated, (hseq _ (Nat.mod_lt _ (by decide))).1]
    exact lfsrBit_congr_mod fullPeriod_feedback1 (by omega)
  have h2 : generated.g2seq.getLsbD ((1023 - delayRom idx + 0 + p) % 1023) = lfsrBit feedback2 (p + codeLag idx) := by
    rw [generated, (hseq _ (Nat.mod_lt _ (by decide))).2]
    exact lfsrBit_congr_mod fullPeriod_feedback2 (by rw [codeLag]; omega)
  rw [chip_eq, h1, h2, bitSign]
  split <;> rfl

theorem sum_map_range_eq_sum (n : Nat) (f : Nat → Int) : ((List.range n).map f).sum = ∑ p ∈ range n, f p := rfl

/-- A correlation of codes as a sum of signs of four entries. -/
theorem correlation_eq (a b k : Nat) : correlation a b k = ∑ p ∈ range 1023,
    bitSign ((lfsrBit feedback1 p ^^ lfsrBit feedback1 (p + k)) ^^
      (lfsrBit feedback2 (p + codeLag a) ^^ lfsrBit feedback2 (p + (k + codeLag b)))) := by
  rw [correlation, sum_map_range_eq_sum]
  refine sum_congr rfl fun p _ => ?_
  have h1 : lfsrBit feedback1 ((p + k) % 1023) = lfsrBit feedback1 (p + k) :=
    lfsrBit_congr_mod fullPeriod_feedback1 (by omega)
  have h2 : lfsrBit feedback2 ((p + k) % 1023 + codeLag b) = lfsrBit feedback2 (p + (k + codeLag b)) :=
    lfsrBit_congr_mod fullPeriod_feedback2 (by omega)
  rw [chip_eq_neg_bitSign, chip_eq_neg_bitSign, h1, h2]
  simp only [bitSign_xor]
  ring

/-- No two delays are the same (R50). -/
theorem codeLag_injective : ∀ a < 51, ∀ b < 51, codeLag a % 1023 = codeLag b % 1023 → a = b := by
  decide +kernel

theorem correlation_self (a : Nat) : correlation a a 0 = 1023 := by
  rw [correlation_eq]
  simp [bitSign]

/-- The four entries of a correlation reduce to one or two (R155). -/
theorem correlation_cases {a b k : Nat} (ha : a < 51) (hb : b < 51) (hk : k < 1023) (hne : a ≠ b ∨ k ≠ 0) :
    correlation a b k = -1 ∨ ∃ y ≤ 1022, correlation a b k = crossSum y := by
  have hmod : ∀ n, n % 1023 ≤ 1022 := fun n => Nat.le_of_lt_succ (Nat.mod_lt n (by decide))
  rw [correlation_eq]
  rcases Nat.eq_zero_or_pos k with rfl | hpos
  · have hlag : codeLag a % 1023 ≠ (0 + codeLag b) % 1023 := fun h => by
      rw [Nat.zero_add] at h
      exact hne.elim (fun hab => hab (codeLag_injective a ha b hb h)) (fun h0 => h0 rfl)
    obtain ⟨z, hz⟩ := exists_shift_eq_xor fullPeriod_feedback2 additive_feedback2 hlag
    left
    rw [sum_congr rfl fun p _ => by rw [hz p, Nat.add_zero, Bool.xor_self, Bool.false_xor], sum_shifted fullPeriod_feedback2,
      sum_bitSign sum_toNat_lfsrBit_feedback2]
  · have hlag1 : 0 % 1023 ≠ k % 1023 := by omega
    obtain ⟨z, hz⟩ := exists_shift_eq_xor fullPeriod_feedback1 additive_feedback1 hlag1
    have hz' : ∀ p, (lfsrBit feedback1 p ^^ lfsrBit feedback1 (p + k)) = lfsrBit feedback1 (p + z) := hz
    by_cases hlag : codeLag a % 1023 = (k + codeLag b) % 1023
    · have hcancel : ∀ p, (lfsrBit feedback2 (p + codeLag a) ^^ lfsrBit feedback2 (p + (k + codeLag b))) = false :=
        fun p => by
          rw [lfsrBit_congr_mod fullPeriod_feedback2 (m := p + codeLag a) (n := p + (k + codeLag b)) (by omega),
            Bool.xor_self]
      left
      rw [sum_congr rfl fun p _ => by rw [hz' p, hcancel p, Bool.xor_false], sum_shifted fullPeriod_feedback1,
        sum_bitSign sum_toNat_lfsrBit_feedback1]
    · obtain ⟨z', hz2⟩ := exists_shift_eq_xor fullPeriod_feedback2 additive_feedback2 hlag
      right
      refine ⟨(z' + 1022 * z) % 1023, hmod _, ?_⟩
      rw [sum_congr rfl fun p _ => by rw [hz' p, hz2 p], sum_shifted_pair]

theorem sum_chips {a : Nat} (ha : a < 51) : ((List.range 1023).map fun p => chip a 0 p).sum = 1 := by
  have hlag : codeLag a ≤ 1022 := by
    have hmin : 1 ≤ delayRom a := (delayRom_bounds ⟨a, ha⟩).1
    rw [codeLag]; omega
  have hsum : ∑ p ∈ range 1023, chip a 0 p = -crossSum (codeLag a) := by
    rw [sum_congr rfl fun p _ => chip_eq_neg_bitSign a p, sum_neg_distrib, crossSum]
  rw [sum_map_range_eq_sum, hsum, crossSum_eq hlag, codeLag, digits_crossNumber.2 a ha]
  norm_num

/-- Settles O18. -/
theorem codesCorrelateAsGoldCodes : Obligations.CodesCorrelateAsGoldCodes := by
  intro a b k ha hb hk
  refine ⟨correlation_self a, fun hne => ?_, sum_chips (by omega)⟩
  rcases correlation_cases (by omega) (by omega) (by omega) hne with h | ⟨y, hy, h⟩
  · exact .inr (.inl h)
  · rw [h]
    exact crossSum_cases hy

end Sys2Proof.Machine
end

section
/-! PROOFS. The finite binary64 values as real numbers, and the one rounding of every operation: to nearest, ties to
even (R17, R200; log 10). -/

namespace Sys2Proof.Machine

open Sys2Proof.Claims

/-! ### Magnitudes as real numbers -/

/-- The real number of a magnitude, in a format whose exponents never end: at `infBits` stands 2^1024. -/
noncomputable def magValue (bits : Nat) : ℝ := (finMant bits : ℝ) * (2 : ℝ) ^ finExp bits

/-- A significand `sig` at exponent `Q − 1074` added into the exponent field has the value that it says, and may be
the next power of two. -/
theorem magValue_of_parts {Q sig : Nat} (hnorm : Q = 0 ∨ 2 ^ 52 ≤ sig) (hsig : sig ≤ 2 ^ 53) :
    magValue (Q * 2 ^ 52 + sig) = sig * (2 : ℝ) ^ ((Q : Int) - 1074) := by
  unfold magValue finMant finExp
  rcases Nat.lt_or_ge (Q * 2 ^ 52 + sig) (2 ^ 52) with hsub | hsub
  · obtain rfl : Q = 0 := by omega
    rw [if_pos hsub, if_pos hsub]
    norm_num
  · rw [if_neg hsub.not_gt, if_neg hsub.not_gt]
    rcases Nat.lt_or_ge sig (2 ^ 53) with hlt | hge
    · have hdiv : (Q * 2 ^ 52 + sig) / 2 ^ 52 = Q + 1 := by omega
      have hmod : 2 ^ 52 + (Q * 2 ^ 52 + sig) % 2 ^ 52 = sig := by omega
      rw [hdiv, hmod, show ((Q + 1 : Nat) : Int) - 1075 = (Q : Int) - 1074 by push_cast; ring]
    · have hdiv : (Q * 2 ^ 52 + sig) / 2 ^ 52 = Q + 2 := by omega
      have hmod : 2 ^ 52 + (Q * 2 ^ 52 + sig) % 2 ^ 52 = 2 ^ 52 := by omega
      have hexp : ((Q + 2 : Nat) : Int) - 1075 = (Q : Int) - 1074 + 1 := by push_cast; ring
      rw [hdiv, hmod, hexp, zpow_add_one₀ two_ne_zero, show sig = 2 ^ 53 by omega]
      push_cast
      ring

/-- Every magnitude is an exponent and a significand. -/
theorem exists_parts (bits : Nat) :
    ∃ Q sig, bits = Q * 2 ^ 52 + sig ∧ (Q = 0 ∨ 2 ^ 52 ≤ sig) ∧ sig < 2 ^ 53 := by
  rcases Nat.lt_or_ge bits (2 ^ 53) with hlt | hge
  · exact ⟨0, bits, by omega, .inl rfl, hlt⟩
  · exact ⟨bits / 2 ^ 52 - 1, bits % 2 ^ 52 + 2 ^ 52, by omega, .inr (by omega), by omega⟩

/-- Neighbouring magnitudes are a unit in the last place apart. -/
theorem magValue_succ {Q sig : Nat} (hnorm : Q = 0 ∨ 2 ^ 52 ≤ sig) (hsig : sig < 2 ^ 53) :
    magValue (Q * 2 ^ 52 + sig + 1) = magValue (Q * 2 ^ 52 + sig) + (2 : ℝ) ^ ((Q : Int) - 1074) := by
  rw [Nat.add_assoc, magValue_of_parts (by omega) (by omega), magValue_of_parts hnorm hsig.le]
  push_cast
  ring

theorem magValue_strictMono : StrictMono magValue := by
  refine strictMono_nat_of_lt_succ fun bits => ?_
  obtain ⟨Q, sig, rfl, hnorm, hsig⟩ := exists_parts bits
  rw [magValue_succ hnorm hsig]
  exact lt_add_of_pos_right _ (by positivity)

theorem magValue_zero : magValue 0 = 0 := by simp [magValue, finMant]

theorem magValue_nonneg (bits : Nat) : 0 ≤ magValue bits := by unfold magValue; positivity

theorem magValue_infBits : magValue infBits = (2 : ℝ) ^ 1024 := by
  have h := magValue_of_parts (Q := 2046) (sig := 2 ^ 52) (.inr le_rfl) (by norm_num)
  rw [show infBits = 2046 * 2 ^ 52 + 2 ^ 52 by decide, h]
  norm_num
  rw [← zpow_natCast, show (4503599627370496 : ℝ) = (2 : ℝ) ^ (52 : ℤ) by norm_num, ← zpow_add₀ two_ne_zero]
  rfl

/-- The real number of a finite pattern. -/
noncomputable def val64 (x : B64) : ℝ := (if sign64 x then -1 else 1) * magValue (magBits x)

theorem realValue_of_unpack64 {x : B64} {neg : Bool} {m : Nat} {e : Int} (h : unpack64 x = .fin neg m e) :
    realValue neg m e = val64 x := by
  obtain ⟨-, rfl, rfl, rfl⟩ := unpack64_eq_fin_iff.1 h
  rw [realValue, val64, magValue, mul_assoc]

theorem abs_val64 (x : B64) : |val64 x| = magValue (magBits x) := by
  have hnonneg := magValue_nonneg (magBits x)
  unfold val64
  split <;> simp [abs_of_nonneg hnonneg]

/-! ### The nearest magnitude -/

/-- `bits` is the magnitude nearest to `v`, and even where another is as near. -/
def IsNearest (v : ℝ) (bits : Nat) : Prop :=
  ∀ z : Nat, |v - magValue bits| ≤ |v - magValue z| ∧
    (|v - magValue bits| = |v - magValue z| → z ≠ bits → bits % 2 = 0)

/-- Which of two neighbours with `v` between them is the nearest. -/
theorem isNearest_of_between {v : ℝ} {lo : Nat} (hlow : magValue lo ≤ v) (hhigh : v ≤ magValue (lo + 1)) :
    (2 * v < magValue lo + magValue (lo + 1) → IsNearest v lo) ∧
      (magValue lo + magValue (lo + 1) < 2 * v → IsNearest v (lo + 1)) ∧
      (2 * v = magValue lo + magValue (lo + 1) → IsNearest v (lo + lo % 2)) := by
  have below : ∀ z, z ≤ lo → magValue z ≤ magValue lo ∧ (z ≠ lo → magValue z < magValue lo) := fun z hz =>
    ⟨magValue_strictMono.monotone hz, fun hne => magValue_strictMono (lt_of_le_of_ne hz hne)⟩
  have above : ∀ z, lo + 1 ≤ z → magValue (lo + 1) ≤ magValue z ∧ (z ≠ lo + 1 → magValue (lo + 1) < magValue z) :=
    fun z hz => ⟨magValue_strictMono.monotone hz, fun hne => magValue_strictMono (lt_of_le_of_ne hz hne.symm)⟩
  have dlo : ∀ z, z ≤ lo → |v - magValue z| = v - magValue z := fun z hz =>
    abs_of_nonneg (by linarith [(below z hz).1])
  have dhi : ∀ z, lo + 1 ≤ z → |v - magValue z| = magValue z - v := fun z hz => by
    rw [abs_sub_comm]; exact abs_of_nonneg (by linarith [(above z hz).1])
  have far : ∀ z, (z ≤ lo ∧ v - magValue lo ≤ |v - magValue z| ∧ (z ≠ lo → v - magValue lo < |v - magValue z|)) ∨
      (lo + 1 ≤ z ∧ magValue (lo + 1) - v ≤ |v - magValue z| ∧
        (z ≠ lo + 1 → magValue (lo + 1) - v < |v - magValue z|)) := by
    intro z
    rcases Nat.lt_or_ge lo z with hz | hz
    · refine .inr ⟨hz, ?_, fun hne => ?_⟩ <;> rw [dhi z hz]
      · linarith [(above z hz).1]
      · linarith [(above z hz).2 hne]
    · refine .inl ⟨hz, ?_, fun hne => ?_⟩ <;> rw [dlo z hz]
      · linarith [(below z hz).1]
      · linarith [(below z hz).2 hne]
  refine ⟨fun h z => ?_, fun h z => ?_, fun h z => ?_⟩
  · rw [dlo lo le_rfl]
    rcases far z with ⟨-, hle, hlt⟩ | ⟨-, hle, -⟩
    · exact ⟨hle, fun heq hne => absurd heq (hlt hne).ne⟩
    · exact ⟨by linarith, fun heq _ => absurd heq (by linarith)⟩
  · rw [dhi (lo + 1) le_rfl]
    rcases far z with ⟨-, hle, -⟩ | ⟨-, hle, hlt⟩
    · exact ⟨by linarith, fun heq _ => absurd heq (by linarith)⟩
    · exact ⟨hle, fun heq hne => absurd heq (hlt hne).ne⟩
  · have heven : (lo + lo % 2) % 2 = 0 := by omega
    refine ⟨?_, fun _ _ => heven⟩
    have hdist : |v - magValue (lo + lo % 2)| = v - magValue lo := by
      rcases Nat.mod_two_eq_zero_or_one lo with hpar | hpar <;> rw [hpar]
      · exact dlo lo le_rfl
      · rw [dhi (lo + 1) le_rfl]; linarith
    rw [hdist]
    rcases far z with ⟨-, hle, -⟩ | ⟨-, hle, -⟩ <;> linarith

/-- The greater of two numbers is as near to `v` exactly from their midpoint on. -/
theorem abs_sub_le_abs_sub_iff_of_lt {x y : ℝ} (v : ℝ) (hxy : x < y) : |v - y| ≤ |v - x| ↔ x + y ≤ 2 * v := by
  rw [← sq_le_sq]
  constructor
  · intro h; nlinarith
  · intro h; nlinarith

theorem abs_sub_le_abs_sub_iff_of_gt {x y : ℝ} (v : ℝ) (hxy : x < y) : |v - x| ≤ |v - y| ↔ 2 * v ≤ x + y := by
  rw [← sq_le_sq]
  constructor
  · intro h; nlinarith
  · intro h; nlinarith

/-- The nearest magnitude rises with the number. -/
theorem IsNearest.mono {v v' : ℝ} {b b' : Nat} (h : IsNearest v b) (h' : IsNearest v' b') (hle : v ≤ v') : b ≤ b' := by
  by_contra hlt
  rw [not_le] at hlt
  have hval := magValue_strictMono hlt
  have hlow := (abs_sub_le_abs_sub_iff_of_lt v hval).1 (h b').1
  have hhigh := (abs_sub_le_abs_sub_iff_of_gt v' hval).1 (h' b).1
  obtain rfl : v = v' := by linarith
  have htie : |v - magValue b| = |v - magValue b'| := le_antisymm (h b').1 (h' b).1
  have heven := (h b').2 htie hlt.ne
  have heven' := (h' b).2 htie.symm hlt.ne'
  have hnext : magValue (b' + 1) < magValue b := magValue_strictMono (by omega)
  have hprev : magValue b' < magValue (b' + 1) := magValue_strictMono (Nat.lt_succ_self _)
  have hmid := (abs_sub_le_abs_sub_iff_of_lt v hnext).1 (h (b' + 1)).1
  linarith

theorem IsNearest.unique {v : ℝ} {b b' : Nat} (h : IsNearest v b) (h' : IsNearest v b') : b = b' :=
  le_antisymm (h.mono h' le_rfl) (h'.mono h le_rfl)

/-- A magnitude is the nearest one to itself. -/
theorem isNearest_magValue (bits : Nat) : IsNearest (magValue bits) bits := by
  intro z
  rw [sub_self, abs_zero]
  refine ⟨abs_nonneg _, fun heq hne => absurd ?_ hne⟩
  exact magValue_strictMono.injective (sub_eq_zero.1 (abs_eq_zero.1 heq.symm)).symm

/-! ### The rounding of m * 2^e -/

/-- The significand before rounding, at the exponent of the last place: its floor, in range for that exponent. -/
def floorSig (m : Nat) (e : Int) : Nat :=
  if ulpExp m e ≤ e then m * 2 ^ (e - ulpExp m e).toNat else m / 2 ^ (ulpExp m e - e).toNat

theorem floorSig_bounds {m : Nat} (hm : m ≠ 0) (e : Int) :
    ((ulpExp m e + 1074).toNat = 0 ∨ 2 ^ 52 ≤ floorSig m e) ∧ floorSig m e < 2 ^ 53 := by
  have hlow : 2 ^ Nat.log2 m ≤ m := Nat.log2_self_le hm
  have hhigh : m < 2 ^ (Nat.log2 m + 1) := Nat.lt_log2_self
  have hq : ulpExp m e = max (e + (Nat.log2 m : Int) - 52) (-1074) := rfl
  unfold floorSig
  split
  case isTrue hexact =>
    constructor
    · rcases lt_or_ge (e + Nat.log2 m - 52) (-1073) with hsub | hnorm
      · exact .inl (by omega)
      · right
        calc 2 ^ 52 = 2 ^ Nat.log2 m * 2 ^ (e - ulpExp m e).toNat := by rw [← pow_add]; congr 1; omega
          _ ≤ m * 2 ^ (e - ulpExp m e).toNat := Nat.mul_le_mul_right _ hlow
    · calc m * 2 ^ (e - ulpExp m e).toNat < 2 ^ (Nat.log2 m + 1) * 2 ^ (e - ulpExp m e).toNat :=
            Nat.mul_lt_mul_of_pos_right hhigh (by positivity)
        _ = 2 ^ (Nat.log2 m + 1 + (e - ulpExp m e).toNat) := (pow_add _ _ _).symm
        _ ≤ 2 ^ 53 := Nat.pow_le_pow_right (by decide) (by omega)
  case isFalse hcut =>
    constructor
    · rcases lt_or_ge (e + Nat.log2 m - 52) (-1073) with hsub | hnorm
      · exact .inl (by omega)
      · right
        rw [Nat.le_div_iff_mul_le (by positivity)]
        calc 2 ^ 52 * 2 ^ (ulpExp m e - e).toNat = 2 ^ Nat.log2 m := by rw [← pow_add]; congr 1; omega
          _ ≤ m := hlow
    · rw [Nat.div_lt_iff_lt_mul (by positivity)]
      calc m < 2 ^ (Nat.log2 m + 1) := hhigh
        _ ≤ 2 ^ (53 + (ulpExp m e - e).toNat) := Nat.pow_le_pow_right (by decide) (by omega)
        _ = 2 ^ 53 * 2 ^ (ulpExp m e - e).toNat := pow_add _ _ _

/-- The magnitude bits of m * 2^e cut off at the last place, in the format without end. -/
def lowerBits (m : Nat) (e : Int) : Nat := (ulpExp m e + 1074).toNat * 2 ^ 52 + floorSig m e

theorem ulpExp_ge (m : Nat) (e : Int) : -1074 ≤ ulpExp m e := le_max_right _ _

theorem magValue_lowerBits {m : Nat} (hm : m ≠ 0) (e : Int) :
    magValue (lowerBits m e) = floorSig m e * (2 : ℝ) ^ ulpExp m e ∧
      magValue (lowerBits m e + 1) = (floorSig m e + 1) * (2 : ℝ) ^ ulpExp m e := by
  obtain ⟨hnorm, hsig⟩ := floorSig_bounds hm e
  have hexp : (((ulpExp m e + 1074).toNat : Nat) : Int) - 1074 = ulpExp m e := by
    have := ulpExp_ge m e; omega
  have hlow := magValue_of_parts hnorm hsig.le
  have hsucc := magValue_succ hnorm hsig
  rw [hexp] at hlow hsucc
  exact ⟨hlow, by rw [lowerBits, hsucc, hlow]; ring⟩

theorem floorBits_eq {m : Nat} (hm : m ≠ 0) (e : Int) : floorBits m e = min (lowerBits m e) infBits := by
  simp only [floorBits, roundBitsBy, if_neg hm, lowerBits, floorSig]

/-- `v` stands to the multiples of the rounding's half place as m * 2^e does: exactly m * 2^e, or a quotient or root
that m * 2^e stands for by its sticky bit. -/
def RoundsLike (v : ℝ) (m : Nat) (e : Int) : Prop :=
  ∀ c : Nat, 2 ^ ((ulpExp m e - e).toNat - 1) ∣ c → ((c : ℝ) * 2 ^ e ≤ v ↔ c ≤ m) ∧ (v ≤ (c : ℝ) * 2 ^ e ↔ m ≤ c)

theorem roundsLike_self (m : Nat) (e : Int) : RoundsLike ((m : ℝ) * 2 ^ e) m e := by
  intro c _
  have hpos : (0 : ℝ) < 2 ^ e := by positivity
  rw [mul_le_mul_iff_left₀ hpos, mul_le_mul_iff_left₀ hpos, Nat.cast_le, Nat.cast_le]
  exact ⟨Iff.rfl, Iff.rfl⟩

theorem roundBits_of_exact {m : Nat} (hm : m ≠ 0) {e : Int} (h : ulpExp m e ≤ e) :
    roundBits m e = min (lowerBits m e) infBits := by
  simp only [roundBits, roundBitsBy, if_neg hm, lowerBits, floorSig, if_pos h]

/-- Where no place is cut off nothing is lost. -/
theorem magValue_lowerBits_of_exact {m : Nat} (hm : m ≠ 0) {e : Int} (h : ulpExp m e ≤ e) :
    magValue (lowerBits m e) = (m : ℝ) * 2 ^ e := by
  have hexp : ((e - ulpExp m e).toNat : Int) + ulpExp m e = e := by omega
  rw [(magValue_lowerBits hm e).1, floorSig, if_pos h, Nat.cast_mul, mul_assoc, Nat.cast_pow, Nat.cast_two,
    ← zpow_natCast, ← zpow_add₀ two_ne_zero, hexp]

theorem roundBits_of_cut {m : Nat} (hm : m ≠ 0) {e : Int} (h : ¬ ulpExp m e ≤ e) : roundBits m e =
    min ((ulpExp m e + 1074).toNat * 2 ^ 52 + roundShift m (ulpExp m e - e).toNat) infBits := by
  simp only [roundBits, roundBitsBy, if_neg hm, if_neg h]

/-- The rounding of m * 2^e is to nearest, ties to even, up to the overflow to infinity; and the number lies between
the cut-off magnitude and the next. -/
theorem exists_isNearest_roundBits {v : ℝ} {m : Nat} (hm : m ≠ 0) {e : Int} (hv : RoundsLike v m e) :
    (∃ b, IsNearest v b ∧ roundBits m e = min b infBits) ∧ magValue (lowerBits m e) ≤ v ∧
      v < magValue (lowerBits m e + 1) := by
  obtain ⟨hlow, hhigh⟩ := magValue_lowerBits hm e
  by_cases hq : ulpExp m e ≤ e
  · have hone : ∀ c, 2 ^ ((ulpExp m e - e).toNat - 1) ∣ c := fun c => by
      rw [show (ulpExp m e - e).toNat - 1 = 0 by omega]; exact one_dvd c
    have hsame : v = magValue (lowerBits m e) := by
      rw [magValue_lowerBits_of_exact hm hq]
      exact le_antisymm ((hv m (hone m)).2.2 le_rfl) ((hv m (hone m)).1.2 le_rfl)
    subst hsame
    exact ⟨⟨_, isNearest_magValue _, roundBits_of_exact hm hq⟩, le_rfl, magValue_strictMono (Nat.lt_succ_self _)⟩
  · obtain ⟨d, hd⟩ : ∃ d : Nat, ulpExp m e = e + (d + 1 : Nat) := ⟨(ulpExp m e - e).toNat - 1, by omega⟩
    have hcut : (ulpExp m e - e).toNat = d + 1 := by omega
    have hsig : floorSig m e = m / 2 ^ (d + 1) := by rw [floorSig, if_neg hq, hcut]
    have hpow : (2 : ℝ) ^ ulpExp m e = 2 ^ (d + 1) * 2 ^ e := by
      rw [hd, add_comm, zpow_add₀ two_ne_zero, zpow_natCast]
    have hdiv := Nat.div_add_mod m (2 ^ (d + 1))
    have hmod := Nat.mod_lt m (show 0 < 2 ^ (d + 1) by positivity)
    set F := m / 2 ^ (d + 1)
    set r := m % 2 ^ (d + 1)
    have hstep : 2 ^ (d + 1) = 2 * 2 ^ d := pow_succ' 2 d
    rw [hsig, hpow] at hlow hhigh
    unfold RoundsLike at hv
    rw [hcut, Nat.add_sub_cancel] at hv
    have hc0 := hv (2 ^ (d + 1) * F) (Dvd.dvd.mul_right (Nat.pow_dvd_pow 2 (Nat.le_succ d)) F)
    have hc1 := hv (2 ^ (d + 1) * (F + 1)) (Dvd.dvd.mul_right (Nat.pow_dvd_pow 2 (Nat.le_succ d)) _)
    have hch := hv (2 ^ d * (2 * F + 1)) (Dvd.intro _ rfl)
    have e0 : ((2 ^ (d + 1) * F : Nat) : ℝ) * 2 ^ e = magValue (lowerBits m e) := by rw [hlow]; push_cast; ring
    have e1 : ((2 ^ (d + 1) * (F + 1) : Nat) : ℝ) * 2 ^ e = magValue (lowerBits m e + 1) := by rw [hhigh]; push_cast; ring
    have eh : 2 * (((2 ^ d * (2 * F + 1) : Nat) : ℝ) * 2 ^ e) =
        magValue (lowerBits m e) + magValue (lowerBits m e + 1) := by rw [hlow, hhigh]; push_cast; ring
    rw [e0] at hc0
    rw [e1] at hc1
    have hge : magValue (lowerBits m e) ≤ v := hc0.1.2 (by omega)
    have hlt : v < magValue (lowerBits m e + 1) := by
      rw [← not_le, hc1.1, Nat.mul_add, Nat.mul_one]; omega
    obtain ⟨hdown, hup, htie⟩ := isNearest_of_between hge hlt.le
    rw [← eh, mul_lt_mul_iff_right₀ two_pos] at hdown hup
    rw [← eh, mul_right_inj' two_ne_zero] at htie
    refine ⟨?_, hge, hlt⟩
    rw [roundBits_of_cut hm hq, hcut]
    have hhalf : 2 ^ d * (2 * F + 1) = 2 ^ (d + 1) * F + 2 ^ d := by rw [hstep]; ring
    have hshift : roundShift m (d + 1) = if 2 ^ (d + 1) < 2 * r then F + 1 else if 2 * r = 2 ^ (d + 1) then F + F % 2 else F :=
      rfl
    have hbits : ∀ n, (ulpExp m e + 1074).toNat * 2 ^ 52 + (F + n) = lowerBits m e + n := fun n => by
      rw [lowerBits, hsig, Nat.add_assoc]
    have hpar : lowerBits m e % 2 = F % 2 := by rw [lowerBits, hsig]; omega
    rw [hshift]
    split
    case isTrue hr => exact ⟨_, hup (by rw [← not_le, hch.2]; omega), by rw [hbits]⟩
    case isFalse hr =>
      split
      case isTrue hr' =>
        exact ⟨_, htie (le_antisymm (hch.2.2 (by omega)) (hch.1.2 (by omega))), by rw [hbits, hpar]⟩
      case isFalse hr' => exact ⟨_, hdown (by rw [← not_le, hch.1]; omega), by rw [lowerBits, hsig]⟩


/-! ### From magnitudes to patterns -/

theorem isNearest_zero : IsNearest 0 0 := magValue_zero ▸ isNearest_magValue 0

theorem roundBits_zero (e : Int) : roundBits 0 e = 0 := by
  simp [roundBits, roundBitsBy]

/-- The rounding of a significand that may be zero. -/
theorem isNearest_roundBits (m : Nat) (e : Int) : ∃ b, IsNearest ((m : ℝ) * 2 ^ e) b ∧ roundBits m e = min b infBits := by
  rcases Nat.eq_zero_or_pos m with rfl | hm
  · exact ⟨0, by simpa using isNearest_zero, by rw [roundBits_zero, Nat.zero_min]⟩
  · exact (exists_isNearest_roundBits hm.ne' (roundsLike_self m e)).1

theorem getLsbD_zero_withSign (neg : Bool) (bits : Nat) : (withSign neg bits).getLsbD 0 = decide (bits % 2 = 1) := by
  rw [withSign, BitVec.getLsbD_append, if_pos (by decide), BitVec.getLsbD_ofNat]
  simp

/-- Between the largest finite number and 2^1024 there is one unit in the last place, and the midpoint is half a unit
from either. -/
theorem overflow_midpoint : magValue (infBits - 1) < magValue infBits ∧
    magValue (infBits - 1) + magValue infBits = 2 * ((2 : ℝ) ^ 1024 - (2 : ℝ) ^ 970) ∧
    (2 : ℝ) ^ 1024 - (2 : ℝ) ^ 970 < magValue infBits := by
  have h := magValue_succ (Q := 2045) (sig := 2 ^ 53 - 1) (.inr (by norm_num)) (by norm_num)
  have hunit : (2 : ℝ) ^ (((2045 : Nat) : Int) - 1074) = 2 * (2 : ℝ) ^ 970 := by
    rw [show ((2045 : Nat) : Int) - 1074 = (971 : Nat) by norm_num, zpow_natCast, pow_succ']
  rw [show 2045 * 2 ^ 52 + (2 ^ 53 - 1) + 1 = infBits by decide, hunit,
    show 2045 * 2 ^ 52 + (2 ^ 53 - 1) = infBits - 1 by decide] at h
  have hhalf : (0 : ℝ) < 2 ^ 970 := by positivity
  rw [← magValue_infBits]
  generalize (2 : ℝ) ^ 970 = half at h hhalf
  refine ⟨magValue_strictMono (by decide), ?_, ?_⟩ <;> linarith

/-- Rounding reaches 2^1024 from the midpoint above the largest finite number on. -/
theorem IsNearest.infBits_le_iff {v : ℝ} {b : Nat} (h : IsNearest v b) :
    infBits ≤ b ↔ (2 : ℝ) ^ 1024 - (2 : ℝ) ^ 970 ≤ v := by
  obtain ⟨hlt, hmid, htop⟩ := overflow_midpoint
  have hodd : (infBits - 1) % 2 ≠ 0 := by decide
  generalize (2 : ℝ) ^ 1024 - (2 : ℝ) ^ 970 = mid at hmid htop ⊢
  constructor
  · intro hb
    by_contra hv
    rw [not_le] at hv
    rcases Nat.eq_or_lt_of_le hb with rfl | hb'
    · have hnear := (abs_sub_le_abs_sub_iff_of_lt v hlt).1 (h _).1
      linarith
    · have hbv : magValue infBits < magValue b := magValue_strictMono hb'
      have hnear := (abs_sub_le_abs_sub_iff_of_lt v hbv).1 (h infBits).1
      linarith
  · intro hv
    by_contra hb
    rw [not_le] at hb
    rcases Nat.eq_or_lt_of_le (Nat.le_sub_one_of_lt hb) with rfl | hb'
    · have hle := (abs_sub_le_abs_sub_iff_of_gt v hlt).1 (h infBits).1
      have htie : |v - magValue (infBits - 1)| = |v - magValue infBits| :=
        le_antisymm (h infBits).1 ((abs_sub_le_abs_sub_iff_of_lt v hlt).2 (by linarith))
      exact hodd ((h infBits).2 htie (by decide))
    · have hbv : magValue b < magValue (infBits - 1) := magValue_strictMono hb'
      have hnear := (abs_sub_le_abs_sub_iff_of_gt v hbv).1 (h _).1
      linarith

/-- The distance of two numbers of one sign is that of their magnitudes. -/
theorem signed_distance {v : ℝ} {neg : Bool} (hv : v = (if neg then -1 else 1) * |v|) (x : ℝ) :
    |v - (if neg then -1 else 1) * x| = |(|v| - x)| := by
  cases neg
  · have hv' : v = |v| := by simpa using hv
    rw [← hv']; simp
  · have hv' : v = -|v| := by simpa using hv
    have hd : v - -1 * x = -(|v| - x) := by linarith
    simp only [if_true]
    rw [hd, abs_neg]

/-- The distance of two numbers of opposite signs is the sum of their magnitudes. -/
theorem opposite_distance {v x : ℝ} {neg neg' : Bool} (hv : v = (if neg then -1 else 1) * |v|) (hne : neg' ≠ neg)
    (hx : 0 ≤ x) : |v - (if neg' then -1 else 1) * x| = |v| + x := by
  have hneg : (if neg' then (-1 : ℝ) else 1) = -(if neg then -1 else 1) := by
    cases neg <;> cases neg' <;> simp at hne ⊢
  rw [hneg, show -(if neg then (-1 : ℝ) else 1) * x = (if neg then -1 else 1) * -x by ring, signed_distance hv,
    sub_neg_eq_add, abs_of_nonneg (add_nonneg (abs_nonneg v) hx)]

/-- `r` is the rounding of `v`: the nearest magnitude, infinity where that overflows, with the sign of `v` unless `v`
is 0. -/
def IsRounding (v : ℝ) (r : B64) : Prop :=
  ∃ neg b, r = withSign neg (min b infBits) ∧ IsNearest |v| b ∧ (v ≠ 0 → (neg = true ↔ v < 0))

/-- A rounding is what the claims call one. -/
theorem IsRounding.roundsTo {v : ℝ} {r : B64} (h : IsRounding v r) : roundsTo v r := by
  obtain ⟨neg, b, rfl, hb, hneg⟩ := h
  have hmag : magBits (withSign neg (min b infBits)) = min b infBits :=
    magBits_withSign _ ((min_le_right _ _).trans_lt infBits_lt)
  unfold Claims.roundsTo
  rcases Nat.lt_or_ge b infBits with hfin | hinf
  · rw [min_eq_left hfin.le] at hmag ⊢
    have hunpack : unpack64 (withSign neg b) = .fin neg (finMant b) (finExp b) := by
      rw [unpack64_of_lt (hmag.symm ▸ hfin), hmag, sign64_withSign]
    rw [hunpack]
    refine ⟨by rw [← not_le, ← hb.infBits_le_iff]; omega, fun z neg' m' e' hz => ?_⟩
    have hr : realValue neg (finMant b) (finExp b) = (if neg then -1 else 1) * magValue b := by
      rw [realValue, magValue, mul_assoc]
    have heven : b % 2 = 0 → (withSign neg b).getLsbD 0 = false := fun h => by
      rw [getLsbD_zero_withSign, h, decide_eq_false Nat.zero_ne_one]
    rw [hr, realValue_of_unpack64 hz, val64]
    have hnonneg := magValue_nonneg (magBits z)
    by_cases h0 : v = 0
    · subst h0
      rw [abs_zero] at hb
      rw [hb.unique isNearest_zero, magValue_zero, mul_zero, sub_self, abs_zero, zero_sub, abs_neg]
      refine ⟨abs_nonneg _, fun heq hne => absurd (abs_eq_zero.1 heq.symm).symm hne⟩
    · have hv : v = (if neg then -1 else 1) * |v| := by
        rcases lt_or_gt_of_ne h0 with hlt | hgt
        · rw [(hneg h0).2 hlt, abs_of_neg hlt]; simp
        · have : neg = false := by rw [← Bool.not_eq_true, hneg h0]; exact hgt.not_gt
          rw [this, abs_of_pos hgt]; simp
      rw [signed_distance hv]
      by_cases hsign : sign64 z = neg
      · rw [hsign, signed_distance hv]
        refine ⟨(hb _).1, fun heq hne => heven ((hb _).2 heq fun hbits => hne ?_)⟩
        rw [hbits]
      · rw [opposite_distance hv hsign hnonneg]
        have hzero := hb 0
        rw [magValue_zero, sub_zero, abs_abs] at hzero
        refine ⟨hzero.1.trans (le_add_of_nonneg_right hnonneg), fun heq hne => ?_⟩
        have hz0 : magValue (magBits z) = 0 := le_antisymm (by linarith [hzero.1]) hnonneg
        rw [hz0, add_zero] at heq
        refine heven (hzero.2 heq fun hb0 => hne ?_)
        rw [hz0, ← hb0, magValue_zero, mul_zero, mul_zero]
  · rw [min_eq_right hinf] at hmag ⊢
    rw [unpack64_of_eq hmag, sign64_withSign]
    have hle := hb.infBits_le_iff.1 hinf
    refine ⟨hle, hneg fun h0 => ?_⟩
    have hpos : (2 : ℝ) ^ 970 < 2 ^ 1024 := pow_lt_pow_right₀ one_lt_two (by decide)
    rw [h0, abs_zero] at hle
    exact hle.not_gt (sub_pos.2 hpos)

end Sys2Proof.Machine
end

section
/-! PROOFS. The binary64 operations of finite operands: the exact result rounded once (R17, R200; log 10), and exact
results where nothing is lost. -/

namespace Sys2Proof.Machine

open Sys2Proof.Claims

/-! ### A signed magnitude rounded -/

/-- Signs multiply as their bits add. -/
theorem sign_xor (a b : Bool) :
    (if (a ^^ b) then (-1 : ℝ) else 1) = (if a then -1 else 1) * (if b then -1 else 1) := by
  cases a <;> cases b <;> norm_num

theorem isRounding_of_magnitude {a : ℝ} (neg : Bool) {b : Nat} (ha : 0 ≤ a) (hb : IsNearest a b) :
    IsRounding ((if neg then -1 else 1) * a) (withSign neg (min b infBits)) := by
  have habs : |(if neg then -1 else 1) * a| = a := by
    cases neg <;> simp [abs_of_nonneg ha]
  refine ⟨neg, b, rfl, by rwa [habs], fun hne => ?_⟩
  have hpos : 0 < a := lt_of_le_of_ne ha fun h0 => hne (by rw [← h0, mul_zero])
  cases neg <;> simp [hpos, hpos.le]

theorem isRounding_round64 (neg : Bool) (m : Nat) (e : Int) : IsRounding (realValue neg m e) (round64 neg m e) := by
  obtain ⟨b, hb, hbits⟩ := isNearest_roundBits m e
  rw [realValue, mul_assoc, round64, hbits]
  exact isRounding_of_magnitude neg (by positivity) hb

theorem isRounding_round64_of_roundsLike {a : ℝ} (neg : Bool) {m : Nat} {e : Int} (ha : 0 ≤ a) (hm : m ≠ 0)
    (h : RoundsLike a m e) : IsRounding ((if neg then -1 else 1) * a) (round64 neg m e) := by
  obtain ⟨⟨b, hb, hbits⟩, -⟩ := exists_isNearest_roundBits hm h
  rw [round64, hbits]
  exact isRounding_of_magnitude neg ha hb

theorem isRounding_zero (neg : Bool) : IsRounding 0 (withSign neg 0) := by
  have h := isRounding_of_magnitude neg le_rfl isNearest_zero
  rwa [mul_zero, Nat.zero_min] at h

/-! ### Sums -/

theorem realValue_eq_signed (neg : Bool) (m : Nat) (e : Int) : realValue neg m e = (signed neg m : ℝ) * (2 : ℝ) ^ e := by
  cases neg <;> simp [realValue, signed]

theorem unpack64_neg64 {x : B64} {neg : Bool} {m : Nat} {e : Int} (h : unpack64 x = .fin neg m e) :
    unpack64 (neg64 x) = .fin (!neg) m e := by
  obtain ⟨hlt, rfl, rfl, rfl⟩ := unpack64_eq_fin_iff.1 h
  rw [unpack64_of_lt (by rwa [magBits_neg64]), magBits_neg64, sign64_neg64]

/-- The integer that `addFin` rounds, at the smaller of the two exponents, is the exact sum. -/
theorem realValue_add (n1 n2 : Bool) (m1 m2 : Nat) (e1 e2 : Int) : realValue n1 m1 e1 + realValue n2 m2 e2 =
    ((signed n1 (m1 * 2 ^ (e1 - min e1 e2).toNat) + signed n2 (m2 * 2 ^ (e2 - min e1 e2).toNat) : Int) : ℝ) *
      (2 : ℝ) ^ min e1 e2 := by
  have scaled : ∀ (n : Bool) (m : Nat) (e e' : Int), e' ≤ e →
      realValue n m e = (signed n (m * 2 ^ (e - e').toNat) : ℝ) * (2 : ℝ) ^ e' := by
    intro n m e e' hle
    have hexp : (2 : ℝ) ^ e = 2 ^ (e - e').toNat * 2 ^ e' := by
      rw [← zpow_natCast, ← zpow_add₀ two_ne_zero]; congr 1; omega
    rw [realValue_eq_signed, hexp]
    cases n <;> simp [signed, mul_assoc]
  rw [scaled n1 m1 e1 _ (min_le_left e1 e2), scaled n2 m2 e2 _ (min_le_right e1 e2)]
  push_cast
  ring

theorem signed_natAbs (v : Int) : signed (decide (v < 0)) v.natAbs = v := by
  unfold signed
  split
  case isTrue h => rw [decide_eq_true_iff] at h; omega
  case isFalse h => rw [decide_eq_true_iff] at h; omega

theorem isRounding_addFin (n1 n2 : Bool) (m1 m2 : Nat) (e1 e2 : Int) :
    IsRounding (realValue n1 m1 e1 + realValue n2 m2 e2) (addFin n1 m1 e1 n2 m2 e2) := by
  rw [realValue_add]
  simp only [addFin]
  generalize signed n1 (m1 * 2 ^ (e1 - min e1 e2).toNat) + signed n2 (m2 * 2 ^ (e2 - min e1 e2).toNat) = v
  split
  case isTrue h0 =>
    rw [h0, Int.cast_zero, zero_mul]
    exact isRounding_zero _
  case isFalse h0 =>
    have hv := isRounding_round64 (decide (v < 0)) v.natAbs (min e1 e2)
    rwa [realValue_eq_signed, signed_natAbs] at hv

/-! ### Quotients and roots, cut off and marked by the sticky bit -/

/-- A number cut off to an integer of at least 54 bits rounds like that integer with the sticky bit below it: every
half place of the rounding is an even multiple of the sticky place. -/
theorem roundsLike_sticky {X : ℝ} {q : Nat} {exact : Bool} (e : Int) (hlow : (q : ℝ) ≤ X) (hhigh : X < q + 1)
    (hexact : exact = true ↔ X = q) (hbig : 2 ^ 54 ≤ q) :
    RoundsLike (X * (2 : ℝ) ^ (e + 1)) (2 * q + stickyBit exact) e := by
  intro c hc
  have hlog : 55 ≤ Nat.log2 (2 * q + stickyBit exact) := by
    rw [Nat.le_log2 (by omega)]; omega
  have hq : ulpExp (2 * q + stickyBit exact) e =
    max (e + (Nat.log2 (2 * q + stickyBit exact) : Int) - 52) (-1074) := rfl
  have heven : 2 ∣ c := (dvd_pow_self 2 (by omega)).trans hc
  obtain ⟨c', rfl⟩ := heven
  have hpos : (0 : ℝ) < 2 ^ (e + 1) := by positivity
  have hscale : ((2 * c' : Nat) : ℝ) * 2 ^ e = c' * 2 ^ (e + 1) := by
    rw [zpow_add_one₀ two_ne_zero]; push_cast; ring
  rw [hscale, mul_le_mul_iff_left₀ hpos, mul_le_mul_iff_left₀ hpos]
  have hfloor : (c' : ℝ) ≤ X ↔ c' ≤ q := by
    constructor
    · intro h
      have hlt : (c' : ℝ) < (q + 1 : Nat) := by push_cast; linarith
      exact Nat.lt_succ_iff.1 (by exact_mod_cast hlt)
    · intro h
      exact (Nat.cast_le.2 h).trans hlow
  cases exact
  · have hne : X ≠ q := fun h => Bool.false_ne_true (hexact.2 h)
    have hceil : X ≤ c' ↔ q + 1 ≤ c' := by
      constructor
      · intro h
        have hlt : (q : ℝ) < c' := (lt_of_le_of_ne hlow hne.symm).trans_le h
        exact_mod_cast hlt
      · intro h
        have hle : ((q + 1 : Nat) : ℝ) ≤ c' := Nat.cast_le.2 h
        push_cast at hle
        linarith
    rw [hfloor, hceil, stickyBit, if_neg Bool.false_ne_true]
    omega
  · have hX : X = q := hexact.1 rfl
    rw [hfloor, hX, Nat.cast_le, stickyBit, if_pos rfl]
    omega

theorem isRounding_sticky {X : ℝ} {q : Nat} {exact : Bool} (neg : Bool) (e : Int) (hlow : (q : ℝ) ≤ X) (hhigh : X < q + 1)
    (hexact : exact = true ↔ X = q) (hbig : 2 ^ 54 ≤ q) :
    IsRounding ((if neg then -1 else 1) * (X * (2 : ℝ) ^ (e + 1))) (round64 neg (2 * q + stickyBit exact) e) := by
  have hnonneg : 0 ≤ X := (Nat.cast_nonneg q).trans hlow
  have hne : 2 * q + stickyBit exact ≠ 0 := by omega
  exact isRounding_round64_of_roundsLike neg (by positivity) hne (roundsLike_sticky e hlow hhigh hexact hbig)

/-- A quotient as a real number and its integer part. -/
theorem div_bounds {m1 m2 : Nat} (hm2 : m2 ≠ 0) : ((m1 / m2 : Nat) : ℝ) ≤ (m1 : ℝ) / m2 ∧
    (m1 : ℝ) / m2 < (m1 / m2 : Nat) + 1 ∧ (decide (m1 % m2 = 0) = true ↔ (m1 : ℝ) / m2 = (m1 / m2 : Nat)) := by
  have hpos : (0 : ℝ) < m2 := by exact_mod_cast Nat.pos_of_ne_zero hm2
  have hdiv := Nat.div_add_mod m1 m2
  have hmod := Nat.mod_lt m1 (Nat.pos_of_ne_zero hm2)
  rw [le_div_iff₀ hpos, div_lt_iff₀ hpos, decide_eq_true_iff, div_eq_iff hpos.ne']
  refine ⟨?_, ?_, ?_⟩
  · exact_mod_cast Nat.div_mul_le_self m1 m2
  · have hlt : m1 < (m1 / m2 + 1) * m2 := by rw [Nat.add_mul, Nat.one_mul, Nat.mul_comm]; omega
    exact_mod_cast hlt
  · norm_cast
    rw [Nat.mul_comm]
    omega

theorem isRounding_divFin (n1 n2 : Bool) (m1 : Nat) {m2 : Nat} (e1 e2 : Int) (hm2 : m2 ≠ 0) :
    IsRounding (realValue n1 m1 e1 / realValue n2 m2 e2) (divFin (n1 ^^ n2) m1 e1 m2 e2) := by
  have hquot : realValue n1 m1 e1 / realValue n2 m2 e2 =
      (if (n1 ^^ n2) then -1 else 1) * (((m1 : ℝ) / m2) * 2 ^ (e1 - e2)) := by
    have hinv : (if n2 then (-1 : ℝ) else 1)⁻¹ = if n2 then -1 else 1 := by cases n2 <;> norm_num
    rw [realValue, realValue, zpow_sub₀ two_ne_zero, sign_xor, div_eq_mul_inv, mul_inv, mul_inv, hinv]
    ring
  rcases Nat.eq_zero_or_pos m1 with rfl | hm1
  · have hzero : divFin (n1 ^^ n2) 0 e1 m2 e2 = withSign (n1 ^^ n2) 0 := by
      simp [divFin, round64, roundBits_zero, stickyBit]
    rw [hzero, hquot, Nat.cast_zero, zero_div, zero_mul, mul_zero]
    exact isRounding_zero _
  · rw [hquot]
    set k := Nat.log2 m2 + 66 with hk
    have hscale : ((m1 : ℝ) / m2) * 2 ^ (e1 - e2) =
        (((m1 * 2 ^ k : Nat) : ℝ) / m2) * 2 ^ (e1 - e2 - k - 1 + 1) := by
      rw [sub_add_cancel, zpow_sub₀ two_ne_zero (e1 - e2), zpow_natCast]
      push_cast
      field_simp
    obtain ⟨hlow, hhigh, hexact⟩ := div_bounds (m1 := m1 * 2 ^ k) hm2
    have hbig : 2 ^ 54 ≤ m1 * 2 ^ k / m2 := by
      rw [Nat.le_div_iff_mul_le (Nat.pos_of_ne_zero hm2)]
      calc 2 ^ 54 * m2 ≤ 2 ^ 54 * 2 ^ (Nat.log2 m2 + 1) := Nat.mul_le_mul_left _ Nat.lt_log2_self.le
        _ = 2 ^ (Nat.log2 m2 + 55) := by rw [← pow_add]; congr 1; omega
        _ ≤ 2 ^ k := Nat.pow_le_pow_right (by decide) (by omega)
        _ ≤ m1 * 2 ^ k := Nat.le_mul_of_pos_left _ hm1
    rw [hscale]
    exact isRounding_sticky _ _ hlow hhigh hexact hbig

theorem rootBits_eq_sqrt (n : Nat) : ∀ k r, r * r ≤ n → n < (r + 2 ^ k) * (r + 2 ^ k) → rootBits n k r = Nat.sqrt n := by
  intro k
  induction k with
  | zero => intro r hlow hhigh; exact Nat.eq_sqrt.2 ⟨hlow, hhigh⟩
  | succ k ih =>
    intro r hlow hhigh
    rw [rootBits]
    rw [pow_succ', two_mul, ← add_assoc] at hhigh
    split
    case isTrue hbit => exact ih _ hbit hhigh
    case isFalse hbit => exact ih _ hlow (not_le.1 hbit)

theorem natRoot_eq_sqrt (n : Nat) : natRoot n = Nat.sqrt n := by
  refine rootBits_eq_sqrt n _ 0 (Nat.zero_le _) ?_
  rw [Nat.zero_add, ← pow_add]
  exact Nat.lt_log2_self.trans_le (Nat.pow_le_pow_right (by decide) (by omega))

theorem sqrt_bounds (n : Nat) : ((Nat.sqrt n : Nat) : ℝ) ≤ √(n : ℝ) ∧ √(n : ℝ) < (Nat.sqrt n : Nat) + 1 ∧
    (decide (Nat.sqrt n * Nat.sqrt n = n) = true ↔ √(n : ℝ) = (Nat.sqrt n : Nat)) := by
  have hnonneg : (0 : ℝ) ≤ Nat.sqrt n := Nat.cast_nonneg _
  rw [decide_eq_true_iff, Real.sqrt_eq_iff_mul_self_eq (Nat.cast_nonneg n) hnonneg]
  refine ⟨Real.le_sqrt_of_sq_le ?_, (Real.sqrt_lt' (by positivity)).2 ?_, ?_⟩
  · rw [sq]; exact_mod_cast Nat.sqrt_le n
  · rw [sq]; exact_mod_cast Nat.lt_succ_sqrt n
  · norm_cast
    exact eq_comm

theorem isRounding_sqrtFin {m : Nat} (hm : m ≠ 0) (e : Int) : IsRounding (√(realValue false m e)) (sqrtFin m e) := by
  simp only [sqrtFin, natRoot_eq_sqrt]
  generalize hk : 128 + (e % 2).toNat = k
  obtain ⟨hlow, hhigh, hexact⟩ := sqrt_bounds (m * 2 ^ k)
  have hhalf : e = k + 2 * ((e - k) / 2) := by omega
  have hroot : √(realValue false m e) = (if false then -1 else 1) *
      (√((m * 2 ^ k : Nat) : ℝ) * 2 ^ ((e - k) / 2 - 1 + 1)) := by
    have hsquare : realValue false m e = ((m * 2 ^ k : Nat) : ℝ) * ((2 : ℝ) ^ ((e - k) / 2)) ^ 2 := by
      have hexp : (2 : ℝ) ^ e = 2 ^ k * ((2 : ℝ) ^ ((e - k) / 2)) ^ 2 := by
        conv_lhs => rw [hhalf]
        rw [zpow_add₀ two_ne_zero, zpow_natCast, two_mul, zpow_add₀ two_ne_zero, sq]
      rw [realValue, hexp]
      push_cast
      simp [mul_assoc]
    rw [hsquare, Real.sqrt_mul (Nat.cast_nonneg _), Real.sqrt_sq (by positivity), sub_add_cancel]
    simp
  have hbig : 2 ^ 54 ≤ Nat.sqrt (m * 2 ^ k) := by
    rw [Nat.le_sqrt]
    calc 2 ^ 54 * 2 ^ 54 ≤ 2 ^ k := by rw [← pow_add]; exact Nat.pow_le_pow_right (by decide) (by omega)
      _ ≤ m * 2 ^ k := Nat.le_mul_of_pos_left _ (Nat.pos_of_ne_zero hm)
  rw [hroot]
  exact isRounding_sticky false _ hlow hhigh hexact hbig

/-! ### The operations of finite operands -/

variable {x y : B64}

theorem add64_of_fin {n1 n2 : Bool} {m1 m2 : Nat} {e1 e2 : Int} (hx : unpack64 x = .fin n1 m1 e1)
    (hy : unpack64 y = .fin n2 m2 e2) : add64 x y = addFin n1 m1 e1 n2 m2 e2 := by
  simp only [add64, hx, hy]

theorem mul64_of_fin {n1 n2 : Bool} {m1 m2 : Nat} {e1 e2 : Int} (hx : unpack64 x = .fin n1 m1 e1)
    (hy : unpack64 y = .fin n2 m2 e2) : mul64 x y = round64 (n1 ^^ n2) (m1 * m2) (e1 + e2) := by
  simp only [mul64, hx, hy]

theorem div64_of_fin {n1 n2 : Bool} {m1 m2 : Nat} {e1 e2 : Int} (hx : unpack64 x = .fin n1 m1 e1)
    (hy : unpack64 y = .fin n2 m2 e2) (hm2 : m2 ≠ 0) : div64 x y = divFin (n1 ^^ n2) m1 e1 m2 e2 := by
  simp only [div64, hx, hy, if_neg hm2]

theorem realValue_mul (n1 n2 : Bool) (m1 m2 : Nat) (e1 e2 : Int) :
    realValue (n1 ^^ n2) (m1 * m2) (e1 + e2) = realValue n1 m1 e1 * realValue n2 m2 e2 := by
  rw [realValue, realValue, realValue, zpow_add₀ two_ne_zero, sign_xor, Nat.cast_mul]
  ring

@[simp] theorem val64_neg64 (x : B64) : val64 (neg64 x) = -val64 x := by
  rw [val64, val64, magBits_neg64, sign64_neg64]
  cases sign64 x <;> simp

theorem add64_isRounding (hx : magBits x < infBits) (hy : magBits y < infBits) :
    IsRounding (val64 x + val64 y) (add64 x y) := by
  rw [add64_of_fin (unpack64_of_lt hx) (unpack64_of_lt hy), ← realValue_of_unpack64 (unpack64_of_lt hx),
    ← realValue_of_unpack64 (unpack64_of_lt hy)]
  exact isRounding_addFin _ _ _ _ _ _

theorem sub64_isRounding (hx : magBits x < infBits) (hy : magBits y < infBits) :
    IsRounding (val64 x - val64 y) (sub64 x y) := by
  rw [sub64, sub_eq_add_neg, ← val64_neg64]
  exact add64_isRounding hx (by rwa [magBits_neg64])

theorem mul64_isRounding (hx : magBits x < infBits) (hy : magBits y < infBits) :
    IsRounding (val64 x * val64 y) (mul64 x y) := by
  rw [mul64_of_fin (unpack64_of_lt hx) (unpack64_of_lt hy), ← realValue_of_unpack64 (unpack64_of_lt hx),
    ← realValue_of_unpack64 (unpack64_of_lt hy), ← realValue_mul]
  exact isRounding_round64 _ _ _

theorem div64_isRounding (hx : magBits x < infBits) (hy : magBits y < infBits) (hy0 : magBits y ≠ 0) :
    IsRounding (val64 x / val64 y) (div64 x y) := by
  have hm2 : finMant (magBits y) ≠ 0 := fun h => hy0 (finMant_eq_zero_iff.1 h)
  rw [div64_of_fin (unpack64_of_lt hx) (unpack64_of_lt hy) hm2, ← realValue_of_unpack64 (unpack64_of_lt hx),
    ← realValue_of_unpack64 (unpack64_of_lt hy)]
  exact isRounding_divFin _ _ _ _ _ hm2

theorem sqrt64_of_magBits_zero (hx : magBits x = 0) : sqrt64 x = x := by
  have hfin : magBits x < infBits := hx ▸ (by decide)
  simp only [sqrt64, unpack64_of_lt hfin, if_pos (finMant_eq_zero_iff.2 hx)]

theorem sqrt64_isRounding (hx : magBits x < infBits) (hsign : sign64 x = false ∨ magBits x = 0) :
    IsRounding (√(val64 x)) (sqrt64 x) := by
  by_cases h0 : magBits x = 0
  · have hroot : √(val64 x) = 0 := by rw [val64, h0, magValue_zero, mul_zero, Real.sqrt_zero]
    rw [hroot, sqrt64_of_magBits_zero h0, ← withSign_sign64_magBits x, h0]
    exact isRounding_zero _
  · have hs := hsign.resolve_right h0
    have hm : finMant (magBits x) ≠ 0 := fun h => h0 (finMant_eq_zero_iff.1 h)
    have hunpack := unpack64_of_lt hx
    rw [← realValue_of_unpack64 hunpack, hs]
    simp only [sqrt64, hunpack, if_neg hm, hs]
    exact isRounding_sqrtFin hm _

/-- Settles O30: every operation rounds the exact result, or one that rounds like it, once. -/
theorem operationsRoundToNearestEven : Obligations.OperationsRoundToNearestEven := by
  intro x y n1 n2 m1 m2 e1 e2 hx hy
  rw [realValue_of_unpack64 hx, realValue_of_unpack64 hy]
  obtain ⟨hxfin, rfl, rfl, -⟩ := unpack64_eq_fin_iff.1 hx
  obtain ⟨hyfin, -, rfl, -⟩ := unpack64_eq_fin_iff.1 hy
  refine ⟨(add64_isRounding hxfin hyfin).roundsTo, (sub64_isRounding hxfin hyfin).roundsTo,
    (mul64_isRounding hxfin hyfin).roundsTo, fun hm2 => ?_, fun hsign => ?_⟩
  · exact (div64_isRounding hxfin hyfin fun h => hm2 (finMant_eq_zero_iff.2 h)).roundsTo
  · exact (sqrt64_isRounding hxfin (hsign.imp_right finMant_eq_zero_iff.1)).roundsTo

end Sys2Proof.Machine
end

section
/-! PROOFS. Bounds, exactness and special values of the binary64 operations (R17, R200; log 10). -/

namespace Sys2Proof.Machine

open Sys2Proof.Claims

variable {x y r : B64} {v : ℝ}

/-! ### What a rounding can be -/

theorem magBits_withSign_min (neg : Bool) (b : Nat) : magBits (withSign neg (min b infBits)) = min b infBits :=
  magBits_withSign _ ((min_le_right _ _).trans_lt infBits_lt)

/-- A rounding is no farther from 0 than a magnitude that the number is not farther from 0 than. -/
theorem IsRounding.magBits_le (h : IsRounding v r) {z : Nat} (hv : |v| ≤ magValue z) : magBits r ≤ z := by
  obtain ⟨neg, b, rfl, hb, -⟩ := h
  rw [magBits_withSign_min]
  exact (min_le_left _ _).trans (hb.mono (isNearest_magValue z) hv)

/-- Nor nearer to 0 than one that the number is not nearer to 0 than. -/
theorem IsRounding.le_magBits (h : IsRounding v r) {z : Nat} (hz : z ≤ infBits) (hv : magValue z ≤ |v|) :
    z ≤ magBits r := by
  obtain ⟨neg, b, rfl, hb, -⟩ := h
  rw [magBits_withSign_min]
  exact le_min ((isNearest_magValue z).mono hb hv) hz

theorem IsRounding.sign64_eq (h : IsRounding v r) (hv : v ≠ 0) : sign64 r = true ↔ v < 0 := by
  obtain ⟨neg, b, rfl, -, hneg⟩ := h
  rw [sign64_withSign]
  exact hneg hv

/-- The rounding of a number other than 0 is one pattern. -/
theorem IsRounding.unique {r' : B64} (h : IsRounding v r) (h' : IsRounding v r') (hv : v ≠ 0) : r = r' := by
  refine eq_of_sign64_magBits (Bool.eq_iff_iff.2 ((h.sign64_eq hv).trans (h'.sign64_eq hv).symm)) ?_
  obtain ⟨neg, b, rfl, hb, -⟩ := h
  obtain ⟨neg', b', rfl, hb', -⟩ := h'
  rw [magBits_withSign_min, magBits_withSign_min, hb.unique hb']

theorem IsRounding.neg (h : IsRounding v r) : IsRounding (-v) (neg64 r) := by
  obtain ⟨neg, b, rfl, hb, hneg⟩ := h
  refine ⟨!neg, b, neg64_withSign _ ((min_le_right _ _).trans_lt infBits_lt), by rwa [abs_neg], fun hv => ?_⟩
  have hv' : v ≠ 0 := neg_ne_zero.1 hv
  rw [Bool.not_eq_true', ← Bool.not_eq_true, hneg hv', not_lt, neg_lt_zero]
  exact ⟨fun hle => lt_of_le_of_ne hle hv'.symm, le_of_lt⟩

/-- A finite pattern rounds its own number. -/
theorem isRounding_val64 (hx : magBits x < infBits) : IsRounding (val64 x) x := by
  have h := isRounding_of_magnitude (sign64 x) (magValue_nonneg (magBits x)) (isNearest_magValue (magBits x))
  rwa [min_eq_left hx.le, withSign_sign64_magBits] at h

theorem val64_eq_zero_iff : val64 x = 0 ↔ magBits x = 0 := by
  rw [← abs_eq_zero, abs_val64, ← magValue_zero]
  exact magValue_strictMono.injective.eq_iff

/-- A number that is a finite magnitude with a sign is rounded to itself. -/
theorem IsRounding.exact (h : IsRounding v r) {z : Nat} (hz : z < infBits) (hv : |v| = magValue z) :
    magBits r = z ∧ val64 r = v := by
  have hmag : magBits r = z := le_antisymm (h.magBits_le hv.le) (h.le_magBits hz.le hv.ge)
  refine ⟨hmag, ?_⟩
  by_cases h0 : v = 0
  · rw [h0, val64_eq_zero_iff, hmag]
    rw [h0, abs_zero, ← magValue_zero] at hv
    exact (magValue_strictMono.injective hv).symm
  · have hsign := h.sign64_eq h0
    rw [val64, hmag, ← hv]
    rcases lt_or_gt_of_ne h0 with hlt | hgt
    · rw [hsign.2 hlt, abs_of_neg hlt]; simp
    · have hpos : ¬ sign64 r = true := fun hs => hgt.not_gt (hsign.1 hs)
      rw [if_neg hpos, abs_of_pos hgt, one_mul]

/-- The magnitude of a power of two. -/
theorem magValue_two_pow (k : Nat) : magValue ((k + 1023) * 2 ^ 52) = (2 : ℝ) ^ k := by
  have h := magValue_of_parts (Q := k + 1022) (sig := 2 ^ 52) (.inr le_rfl) (by norm_num)
  have hbits : (k + 1023) * 2 ^ 52 = (k + 1022) * 2 ^ 52 + 2 ^ 52 := by ring
  have hexp : ((k + 1022 : Nat) : Int) - 1074 = (k : Int) - 52 := by push_cast; ring
  rw [hbits, h, hexp, zpow_sub₀ two_ne_zero, zpow_natCast, Nat.cast_pow, Nat.cast_two]
  exact mul_div_cancel₀ _ (by positivity)

theorem two_pow_bits_lt {k : Nat} (hk : k < 1024) : (k + 1023) * 2 ^ 52 < infBits := by
  unfold infBits; omega

/-- A rounding of a number of at most 2^k is finite and at most 2^k. -/
theorem IsRounding.bounded (h : IsRounding v r) {k : Nat} (hk : k < 1024) (hv : |v| ≤ (2 : ℝ) ^ k) :
    magBits r < infBits ∧ |val64 r| ≤ (2 : ℝ) ^ k := by
  rw [← magValue_two_pow] at hv ⊢
  have hle := h.magBits_le hv
  rw [abs_val64]
  exact ⟨hle.trans_lt (two_pow_bits_lt hk), magValue_strictMono.monotone hle⟩

theorem magValue_one : magValue 1 = (2 : ℝ) ^ (-1074 : Int) := by
  have h := magValue_of_parts (Q := 0) (sig := 1) (.inl rfl) (by norm_num)
  rw [Nat.zero_mul, Nat.zero_add] at h
  rw [h]
  norm_num

/-! ### Exact results (R200) -/

/-- A number of at most 53 significant bits in range is a magnitude. -/
theorem exists_magValue_eq {m : Nat} {e : Int} (hm : m < 2 ^ 53) (he : -1074 ≤ e) : ∃ z, magValue z = (m : ℝ) * 2 ^ e := by
  rcases Nat.eq_zero_or_pos m with rfl | hpos
  · exact ⟨0, by rw [magValue_zero, Nat.cast_zero, zero_mul]⟩
  · have hlog : Nat.log2 m < 53 := (Nat.log2_lt hpos.ne').2 hm
    have hq : ulpExp m e ≤ e := max_le (by omega) he
    exact ⟨_, magValue_lowerBits_of_exact hpos.ne' hq⟩

/-- The product of two finite numbers of few bits is exact. -/
theorem round64_exact {neg : Bool} {m : Nat} {e : Int} (hm : m < 2 ^ 53) (he : -1074 ≤ e) (hmax : e ≤ 512) :
    magBits (round64 neg m e) < infBits ∧ sign64 (round64 neg m e) = neg ∧
      val64 (round64 neg m e) = realValue neg m e := by
  obtain ⟨z, hz⟩ := exists_magValue_eq hm he
  have habs : |realValue neg m e| = magValue z := by
    rw [hz, realValue, mul_assoc, abs_mul]
    have hpos : (0 : ℝ) ≤ (m : ℝ) * 2 ^ e := by positivity
    cases neg <;> simp [abs_of_nonneg hpos]
  have hlt : z < infBits := by
    rw [← magValue_strictMono.lt_iff_lt, magValue_infBits, hz]
    calc (m : ℝ) * 2 ^ e < 2 ^ 53 * 2 ^ (512 : Int) :=
          mul_lt_mul (by exact_mod_cast hm) (zpow_le_zpow_right₀ one_le_two hmax) (by positivity) (by positivity)
      _ = (2 : ℝ) ^ 565 := by rw [← zpow_natCast, ← zpow_natCast, ← zpow_add₀ two_ne_zero]; rfl
      _ < 2 ^ 1024 := pow_lt_pow_right₀ one_lt_two (by decide)
  obtain ⟨hmag, hval⟩ := (isRounding_round64 neg m e).exact hlt habs
  exact ⟨hmag ▸ hlt, sign64_withSign _ _, hval⟩

/-- A finite binary32's significand and exponent are small. -/
theorem unpack32_bounds {w : B32} {neg : Bool} {m : Nat} {e : Int} (h : unpack32 w = .fin neg m e) :
    neg = w.getLsbD 31 ∧ m < 2 ^ 24 ∧ -149 ≤ e ∧ e ≤ 104 ∧ (m = 0 ↔ w.toNat % 2 ^ 31 = 0) := by
  have hfrac := (w.extractLsb' 0 23).isLt
  have hex := (w.extractLsb' 23 8).isLt
  have hfields : (w.extractLsb' 23 8).toNat = w.toNat / 2 ^ 23 % 2 ^ 8 ∧ (w.extractLsb' 0 23).toNat = w.toNat % 2 ^ 23 := by
    rw [BitVec.extractLsb'_toNat, BitVec.extractLsb'_toNat, Nat.shiftRight_eq_div_pow]
    exact ⟨rfl, by simp⟩
  obtain ⟨hexp, hman⟩ := hfields
  unfold unpack32 at h
  dsimp only at h
  split at h
  · split at h <;> cases h
  · split at h <;> cases h
    · exact ⟨rfl, by omega, by omega, by omega, by omega⟩
    · exact ⟨rfl, by omega, by omega, by omega, by omega⟩

/-- Widening a finite binary32 is exact (R200). -/
theorem to64_of_fin {w : B32} {neg : Bool} {m : Nat} {e : Int} (h : unpack32 w = .fin neg m e) :
    magBits (to64 w) < infBits ∧ sign64 (to64 w) = neg ∧ val64 (to64 w) = realValue neg m e := by
  obtain ⟨-, hm, hmin, hmax, -⟩ := unpack32_bounds h
  rw [to64, h]
  exact round64_exact (by omega) (by omega) (by omega)

/-- The product of two widened binary32 values is exact (R200). -/
theorem mul64_to64_exact {a b : B32} {n1 n2 : Bool} {m1 m2 : Nat} {e1 e2 : Int} (ha : unpack32 a = .fin n1 m1 e1)
    (hb : unpack32 b = .fin n2 m2 e2) : magBits (mul64 (to64 a) (to64 b)) < infBits ∧
      sign64 (mul64 (to64 a) (to64 b)) = (n1 ^^ n2) ∧
      val64 (mul64 (to64 a) (to64 b)) = realValue n1 m1 e1 * realValue n2 m2 e2 := by
  obtain ⟨hafin, hasign, haval⟩ := to64_of_fin ha
  obtain ⟨hbfin, hbsign, hbval⟩ := to64_of_fin hb
  obtain ⟨-, hm1, hmin1, hmax1, -⟩ := unpack32_bounds ha
  obtain ⟨-, hm2, hmin2, hmax2, -⟩ := unpack32_bounds hb
  have hprod : m1 * m2 < 2 ^ 53 := (Nat.mul_lt_mul'' hm1 hm2).trans_le (by norm_num)
  obtain ⟨hfin, -, hval⟩ := round64_exact (neg := n1 ^^ n2) hprod (show -1074 ≤ e1 + e2 by omega) (by omega)
  have hround := mul64_isRounding hafin hbfin
  rw [haval, hbval, ← realValue_mul] at hround
  obtain ⟨hmag, hval'⟩ := hround.exact hfin (by rw [← hval, abs_val64])
  refine ⟨hmag ▸ hfin, ?_, by rw [hval', realValue_mul]⟩
  rw [mul64_of_fin (unpack64_of_lt hafin) (unpack64_of_lt hbfin), round64, sign64_withSign, hasign, hbsign]

/-- Settles O29. -/
theorem widenedProductsAreExact : Obligations.WidenedProductsAreExact := by
  have claim : ∀ {r : B64} {neg : Bool} {v : ℝ}, magBits r < infBits ∧ sign64 r = neg ∧ val64 r = v →
      ∃ m e, unpack64 r = .fin neg m e ∧ realValue neg m e = v := by
    rintro r neg v ⟨hfin, rfl, rfl⟩
    exact ⟨_, _, unpack64_of_lt hfin, realValue_of_unpack64 (unpack64_of_lt hfin)⟩
  intro a b n1 n2 m1 m2 e1 e2 ha hb
  exact ⟨claim (to64_of_fin ha), claim (mul64_to64_exact ha hb)⟩

/-! ### Special values (R17; log 10) -/

/-- A value with the opposite sign. -/
def Fp.opposite (f : Fp) : Fp :=
  match f with
  | .nan => .nan
  | .inf neg => .inf (!neg)
  | .fin neg m e => .fin (!neg) m e

theorem unpack64_neg64_eq (x : B64) : unpack64 (neg64 x) = (unpack64 x).opposite := by
  rw [unpack64_eq, unpack64_eq, magBits_neg64, sign64_neg64]
  split
  · rfl
  · split <;> rfl

theorem unpack64_nan64 : unpack64 nan64 = .nan := by decide

theorem eq_withSign_infBits (h : magBits x = infBits) : withSign (sign64 x) infBits = x := by
  rw [← h, withSign_sign64_magBits]

/-- A NaN operand gives a NaN (R17). -/
theorem operations_of_nan (h : unpack64 x = .nan ∨ unpack64 y = .nan) :
    add64 x y = nan64 ∧ sub64 x y = nan64 ∧ mul64 x y = nan64 ∧ div64 x y = nan64 := by
  rcases h with h | h
  · simp [add64, sub64, mul64, div64, h]
  · cases hx : unpack64 x <;> simp [add64, sub64, mul64, div64, h, hx, unpack64_neg64_eq, Fp.opposite]

/-- Two infinities (R17). -/
theorem operations_of_inf_inf {a b : Bool} (hx : unpack64 x = .inf a) (hy : unpack64 y = .inf b) :
    add64 x y = (if a = b then withSign a infBits else nan64) ∧
      sub64 x y = (if a = !b then withSign a infBits else nan64) ∧
      mul64 x y = withSign (a ^^ b) infBits ∧ div64 x y = nan64 := by
  simp [add64, sub64, mul64, div64, hx, hy, unpack64_neg64_eq, Fp.opposite]

/-- An infinity and a finite number (R17). -/
theorem operations_of_inf_fin {a b : Bool} {m : Nat} {e : Int} (hx : unpack64 x = .inf a) (hy : unpack64 y = .fin b m e) :
    add64 x y = withSign a infBits ∧ add64 y x = withSign a infBits ∧ sub64 x y = withSign a infBits ∧
      sub64 y x = withSign (!a) infBits ∧ div64 x y = withSign (a ^^ b) infBits ∧ div64 y x = withSign (b ^^ a) 0 ∧
      mul64 x y = (if m = 0 then nan64 else withSign (a ^^ b) infBits) ∧
      mul64 y x = (if m = 0 then nan64 else withSign (b ^^ a) infBits) := by
  simp [add64, sub64, mul64, div64, hx, hy, unpack64_neg64_eq, Fp.opposite]

theorem round64_zero (neg : Bool) (e : Int) : round64 neg 0 e = withSign neg 0 := by
  rw [round64, roundBits_zero]

theorem divFin_zero (neg : Bool) (e1 : Int) (m2 : Nat) (e2 : Int) : divFin neg 0 e1 m2 e2 = withSign neg 0 := by
  simp [divFin, stickyBit, round64_zero]

/-- A zero changes no number that it is added to or subtracted from. -/
theorem add64_zero_right (hx : magBits x < infBits) (hx0 : magBits x ≠ 0) (hy : magBits y = 0) :
    add64 x y = x ∧ add64 y x = x := by
  have hyfin : magBits y < infBits := hy ▸ (by decide)
  have hyval : val64 y = 0 := val64_eq_zero_iff.2 hy
  have hxval : val64 x ≠ 0 := fun h => hx0 (val64_eq_zero_iff.1 h)
  have hright := add64_isRounding hx hyfin
  have hleft := add64_isRounding hyfin hx
  rw [hyval, add_zero] at hright
  rw [hyval, zero_add] at hleft
  exact ⟨hright.unique (isRounding_val64 hx) hxval, hleft.unique (isRounding_val64 hx) hxval⟩

theorem add64_zero_zero (hx : magBits x = 0) (hy : magBits y = 0) : add64 x y = withSign (sign64 x && sign64 y) 0 := by
  have hxfin : magBits x < infBits := hx ▸ (by decide)
  have hyfin : magBits y < infBits := hy ▸ (by decide)
  rw [add64_of_fin (unpack64_of_lt hxfin) (unpack64_of_lt hyfin), finMant_eq_zero_iff.2 hx, finMant_eq_zero_iff.2 hy]
  simp [addFin, signed]

/-- A number less itself is +0. -/
theorem add64_neg64_self (hx : magBits x < infBits) : add64 x (neg64 x) = 0#64 := by
  rw [add64_of_fin (unpack64_of_lt hx) (unpack64_neg64 (unpack64_of_lt hx))]
  cases hs : sign64 x <;> simp [addFin, signed] <;> decide

/-- Settles O31, by the kinds of the operands. -/
theorem ieeeSpecialValues : Obligations.IeeeSpecialValues := by
  intro x y
  have hnan := unpack64_nan64
  refine ⟨fun h => ?nan, fun hx hy => ?infInf, fun hx hy => ?infFin, fun hx hy => ?finZero, fun hx => ?self, fun hx => ?_,
    sqrt64_of_magBits_zero, fun hx0 hsign => ?_, fun hx => ?_⟩
  case nan =>
    obtain ⟨h1, h2, h3, h4⟩ := operations_of_nan h
    rw [h1, h2, h3, h4]
    exact ⟨hnan, hnan, hnan, hnan⟩
  case infInf =>
    obtain ⟨h1, h2, h3, h4⟩ := operations_of_inf_inf (unpack64_of_eq hx) (unpack64_of_eq hy)
    refine ⟨fun hs => ?_, fun hs => ?_, h3, h4 ▸ hnan⟩
    · rw [h1, h2, if_pos hs, if_neg (by simp [hs]), eq_withSign_infBits hx]
      exact ⟨rfl, hnan⟩
    · rw [h1, h2, if_neg hs, if_pos (Bool.eq_not_of_ne hs), eq_withSign_infBits hx]
      exact ⟨hnan, rfl⟩
  case infFin =>
    obtain ⟨h1, h2, h3, h4, h5, h6, h7, h8⟩ := operations_of_inf_fin (unpack64_of_eq hx) (unpack64_of_lt hy)
    have hneg : withSign (!sign64 x) infBits = neg64 x := by
      rw [← neg64_withSign _ infBits_lt, eq_withSign_infBits hx]
    rw [h1, h2, h3, h4, h5, h6, h7, h8, eq_withSign_infBits hx, Bool.xor_comm (sign64 y), hneg]
    refine ⟨rfl, rfl, rfl, rfl, rfl, rfl, fun h0 => ?_, fun h0 => ?_⟩
    · rw [if_pos (finMant_eq_zero_iff.2 h0)]; exact ⟨hnan, hnan⟩
    · rw [if_neg fun h => h0 (finMant_eq_zero_iff.1 h)]; exact ⟨rfl, rfl⟩
  case finZero =>
    have hyfin : magBits y < infBits := hy ▸ (by decide)
    have hxu := unpack64_of_lt hx
    have hyu := unpack64_of_lt hyfin
    have hym : finMant (magBits y) = 0 := finMant_eq_zero_iff.2 hy
    refine ⟨?_, ?_, fun hx0 => ⟨?_, add64_zero_zero hx0 hy, ?_⟩, fun hx0 => ?_⟩
    · rw [mul64_of_fin hxu hyu, hym, Nat.mul_zero, round64_zero]
    · rw [mul64_of_fin hyu hxu, hym, Nat.zero_mul, round64_zero, Bool.xor_comm]
    · simp [div64, hxu, hyu, hym, finMant_eq_zero_iff.2 hx0, hnan]
    · rw [sub64, add64_zero_zero hx0 (by rwa [magBits_neg64]), sign64_neg64]
    · have hxm : finMant (magBits x) ≠ 0 := fun h => hx0 (finMant_eq_zero_iff.1 h)
      obtain ⟨h1, h2⟩ := add64_zero_right hx hx0 hy
      obtain ⟨h3, -⟩ := add64_zero_right hx hx0 (y := neg64 y) (by rwa [magBits_neg64])
      obtain ⟨-, h4⟩ := add64_zero_right (x := neg64 x) (by rwa [magBits_neg64]) (by rwa [magBits_neg64]) hy
      refine ⟨?_, ?_, h1, h2, h3, h4⟩
      · simp [div64, hxu, hyu, hym, hxm]
      · rw [div64_of_fin hyu hxu hxm, hym, divFin_zero, Bool.xor_comm]
  case self => exact ⟨add64_neg64_self hx, add64_neg64_self hx⟩
  · simp [sqrt64, hx, hnan]
  · unfold sqrt64
    rcases lt_trichotomy (magBits x) infBits with h | h | h
    · rw [unpack64_of_lt h]
      simp [finMant_eq_zero_iff, hx0, hsign, hnan]
    · rw [unpack64_of_eq h]
      simp [hsign, hnan]
    · rw [unpack64_of_gt h]
      exact hnan
  · subst hx; decide

end Sys2Proof.Machine
end

section
/-! PROOFS. The arctangents' special cases, oddness and range for every build (R201, R202). -/

namespace Sys2Proof.Machine

open Sys2Proof.Claims

variable {x y : B64}

/-! ### The arctangents by the kinds of their operands -/

theorem atan2_of_nan (b : Build) (h : unpack64 y = .nan ∨ unpack64 x = .nan) : atan2 b y x = nan64 := by
  unfold atan2
  rcases h with h | h
  · simp [h]
  · cases hy : unpack64 y <;> simp [h]

/-- With no NaN the angle is that of |y| and x, with the sign of y carried over (R201 (c)). -/
theorem atan2_of_not_nan (b : Build) (hy : unpack64 y ≠ .nan) (hx : unpack64 x ≠ .nan) : atan2 b y x =
    negateIf (sign64 y) (atan2Positive b.arctanReference (Config.atan2Proposal (withSign false (magBits y)) x)
      (unpack64 y) (unpack64 x)) := by
  unfold atan2
  cases hyu : unpack64 y
  case nan => exact absurd hyu hy
  all_goals
    cases hxu : unpack64 x
    case nan => exact absurd hxu hx
    all_goals rfl

theorem atan_of_nan (b : Build) (h : unpack64 x = .nan) : atan b x = nan64 := by
  simp [atan, h]

theorem atan_of_not_nan (b : Build) (hx : unpack64 x ≠ .nan) : atan b x =
    negateIf (sign64 x) (atanPositive b.arctanReference (Config.atanProposal (withSign false (magBits x)))
      (unpack64 x)) := by
  unfold atan
  cases hxu : unpack64 x
  case nan => exact absurd hxu hx
  all_goals rfl

/-- The sign carried over to a value of positive sign. -/
theorem negateIf_withSign_false (neg : Bool) {bits : Nat} (h : bits < 2 ^ 63) :
    negateIf neg (withSign false bits) = withSign neg bits := by
  cases neg
  · rfl
  · exact neg64_withSign false h

theorem magBits_negateIf (neg : Bool) (v : B64) : magBits (negateIf neg v) = magBits v := by
  cases neg
  · rfl
  · exact magBits_neg64 v

theorem negateIf_not (neg : Bool) (v : B64) : negateIf (!neg) v = neg64 (negateIf neg v) := by
  cases neg <;> simp

theorem not_nan_of_magBits_le (h : magBits x ≤ infBits) : unpack64 x ≠ .nan := fun hnan =>
  (unpack64_eq_nan_iff.1 hnan).not_ge h

theorem magBits_le_of_not_nan (h : unpack64 x ≠ .nan) : magBits x ≤ infBits :=
  not_lt.1 fun hlt => h (unpack64_of_gt hlt)

/-- Settles O26, each case by the kinds of the two operands. -/
theorem arctangentSpecialCases : Obligations.ArctangentSpecialCases := by
  intro b x y
  have hpi : (0x400921FB54442D18 : Nat) < 2 ^ 63 := by decide
  have hhalf : (0x3FF921FB54442D18 : Nat) < 2 ^ 63 := by decide
  have hreal : ∀ s : Bool, (if s then 0x400921FB54442D18 else 0 : Nat) < 2 ^ 63 := by decide
  have hquarter : ∀ s : Bool, (if s then 0x4002D97C7F3321D2 else 0x3FE921FB54442D18 : Nat) < 2 ^ 63 := by decide
  refine ⟨fun h => atan2_of_nan b h ▸ unpack64_nan64, fun hy hx => ⟨fun hy0 => ?_, fun hy0 hx0 => ?_, fun hyfin hxinf => ?_,
    fun hyinf hxfin => ?_, fun hyinf hxinf => ?_⟩, fun h => atan_of_nan b h ▸ unpack64_nan64, fun hx0 => ?_, fun hxinf => ?_⟩
  · have hyfin : magBits y < infBits := hy0 ▸ (by decide)
    rw [atan2_of_not_nan b hy hx, unpack64_of_lt hyfin, ← negateIf_withSign_false _ (hreal _)]
    rcases Nat.eq_or_lt_of_le (magBits_le_of_not_nan hx) with hxinf | hxfin
    · rw [unpack64_of_eq hxinf]; rfl
    · rw [unpack64_of_lt hxfin, atan2Positive, if_pos (finMant_eq_zero_iff.2 hy0)]; rfl
  · have hxfin : magBits x < infBits := hx0 ▸ (by decide)
    rw [atan2_of_not_nan b hy hx, unpack64_of_lt hxfin, ← negateIf_withSign_false _ hhalf]
    rcases Nat.eq_or_lt_of_le (magBits_le_of_not_nan hy) with hyinf | hyfin
    · rw [unpack64_of_eq hyinf]; rfl
    · have hym : finMant (magBits y) ≠ 0 := fun h => hy0 (finMant_eq_zero_iff.1 h)
      rw [unpack64_of_lt hyfin, atan2Positive, if_neg hym, if_pos (finMant_eq_zero_iff.2 hx0)]; rfl
  · rw [atan2_of_not_nan b hy hx, unpack64_of_lt hyfin, unpack64_of_eq hxinf, ← negateIf_withSign_false _ (hreal _)]; rfl
  · rw [atan2_of_not_nan b hy hx, unpack64_of_eq hyinf, unpack64_of_lt hxfin, ← negateIf_withSign_false _ hhalf]; rfl
  · rw [atan2_of_not_nan b hy hx, unpack64_of_eq hyinf, unpack64_of_eq hxinf, ← negateIf_withSign_false _ (hquarter _)]; rfl
  · have hxfin : magBits x < infBits := hx0 ▸ (by decide)
    rw [atan_of_not_nan b (not_nan_of_magBits_le hxfin.le), unpack64_of_lt hxfin, atanPositive,
      if_pos (finMant_eq_zero_iff.2 hx0), negateIf_withSign_false _ (by decide), ← hx0, withSign_sign64_magBits]
  · rw [atan_of_not_nan b (not_nan_of_magBits_le hxinf.le), unpack64_of_eq hxinf, ← negateIf_withSign_false _ hhalf]; rfl

/-! ### Range (R201 (d), R202 (d)) -/

theorem Angle.magBits_value_le (g : Angle) (reference : Bool) (proposal : B64) {most : Nat} (h : most < 2 ^ 63) :
    magBits (g.value reference proposal most) ≤ most := by
  have hmin : ∀ bits, min most bits < 2 ^ 63 := fun bits => (min_le_left _ _).trans_lt h
  rcases g.value_cases reference proposal most with hv | ⟨-, -, hv⟩ <;> rw [hv, magBits_withSign _ (hmin _)]
  · exact min_le_left _ _
  · exact min_le_left _ _

theorem magBits_atan2Positive_le (reference : Bool) (proposal : B64) {fy fx : Fp} (hy : fy ≠ .nan) (hx : fx ≠ .nan) :
    magBits (atan2Positive reference proposal fy fx) ≤ piBits := by
  have hpi : piBits < 2 ^ 63 := by decide
  have hconst : ∀ bits, bits ≤ piBits → magBits (withSign false bits) ≤ piBits := fun bits hle => by
    rwa [magBits_withSign false (hle.trans_lt hpi)]
  have hreal : ∀ s : Bool, (if s then piBits else 0) ≤ piBits := by decide
  have hquarter : ∀ s : Bool, (if s then threeQuarterPiBits else quarterPiBits) ≤ piBits := by decide
  have hhalf : halfPiBits ≤ piBits := by decide
  cases fy with
  | nan => exact absurd rfl hy
  | inf ny =>
    cases fx with
    | nan => exact absurd rfl hx
    | inf nx => exact hconst _ (hquarter nx)
    | fin nx mx ex => exact hconst _ hhalf
  | fin ny my ey =>
    cases fx with
    | nan => exact absurd rfl hx
    | inf nx => exact hconst _ (hreal nx)
    | fin nx mx ex =>
      rw [atan2Positive]
      split
      · exact hconst _ (hreal nx)
      · split
        · exact hconst _ hhalf
        · exact Angle.magBits_value_le _ _ _ hpi

theorem magBits_atanPositive_le (reference : Bool) (proposal : B64) {fx : Fp} (hx : fx ≠ .nan) :
    magBits (atanPositive reference proposal fx) ≤ halfPiBits := by
  have hhalf : halfPiBits < 2 ^ 63 := by decide
  cases fx with
  | nan => exact absurd rfl hx
  | inf nx => rw [atanPositive, magBits_withSign false hhalf]
  | fin nx mx ex =>
    rw [atanPositive]
    split
    · rw [magBits_withSign false (by decide)]
      exact Nat.zero_le _
    · exact Angle.magBits_value_le _ _ _ hhalf

/-- The positive arctangents read no sign of y (R201 (c), R202 (c)). -/
theorem atan2Positive_opposite (reference : Bool) (proposal : B64) (fy fx : Fp) :
    atan2Positive reference proposal fy.opposite fx = atan2Positive reference proposal fy fx := by
  cases fy <;> cases fx <;> rfl

theorem atanPositive_opposite (reference : Bool) (proposal : B64) (fx : Fp) :
    atanPositive reference proposal fx.opposite = atanPositive reference proposal fx := by
  cases fx <;> rfl

theorem opposite_ne_nan {f : Fp} (h : f ≠ .nan) : f.opposite ≠ .nan := by
  cases f
  case nan => exact absurd rfl h
  all_goals simp [Fp.opposite]

theorem atan2_neg64_left (b : Build) (hy : unpack64 y ≠ .nan) (hx : unpack64 x ≠ .nan) :
    atan2 b (neg64 y) x = neg64 (atan2 b y x) := by
  have hneg : unpack64 (neg64 y) ≠ .nan := unpack64_neg64_eq y ▸ opposite_ne_nan hy
  rw [atan2_of_not_nan b hneg hx, atan2_of_not_nan b hy hx, unpack64_neg64_eq, atan2Positive_opposite, magBits_neg64,
    sign64_neg64, negateIf_not]

theorem atan_neg64 (b : Build) (hx : unpack64 x ≠ .nan) : atan b (neg64 x) = neg64 (atan b x) := by
  have hneg : unpack64 (neg64 x) ≠ .nan := unpack64_neg64_eq x ▸ opposite_ne_nan hx
  rw [atan_of_not_nan b hneg, atan_of_not_nan b hx, unpack64_neg64_eq, atanPositive_opposite, magBits_neg64,
    sign64_neg64, negateIf_not]

/-- Settles O27. -/
theorem arctangentsAreOddAndBounded : Obligations.ArctangentsAreOddAndBounded := by
  intro b x y
  refine ⟨fun hy hx => ⟨atan2_neg64_left b hy hx, ?_⟩, fun hx => ⟨atan_neg64 b hx, ?_⟩⟩
  · rw [atan2_of_not_nan b hy hx, magBits_negateIf]
    exact magBits_atan2Positive_le _ _ hy hx
  · rw [atan_of_not_nan b hx, magBits_negateIf]
    exact magBits_atanPositive_le _ _ hx

end Sys2Proof.Machine
end

section
/-! PROOFS. The discriminators: closed forms, canonical NaNs, symmetries, corners and the range of DISC_DLL (R200, R203,
R210 to R214). -/

namespace Sys2Proof.Machine

open Sys2Proof.Claims

variable {s t : State} {x y : B64}

/-! ### Closed forms and canonical NaNs (R200, R203) -/

/-- Settles O24: the closed forms are the commands' equations. -/
theorem discriminatorsComputeTheirFormulas : Obligations.DiscriminatorsComputeTheirFormulas := fun s =>
  ⟨exec_discFll s, exec_discPll4q s, exec_discCostas s, exec_discDll s⟩

theorem canon_of_nan (h : unpack64 x = .nan) : canon x = nan64 := by
  simp only [canon, h]

theorem canon_of_not_nan (h : unpack64 x ≠ .nan) : canon x = x := by
  unfold canon
  split
  · exact absurd ‹_› h
  · rfl
  · rfl

theorem eq_nan64_of_canon (h : unpack64 (canon x) = .nan) : canon x = nan64 := by
  by_cases hx : unpack64 x = .nan
  · exact canon_of_nan hx
  · rw [canon_of_not_nan hx] at h
    exact absurd h hx

/-- Settles O35: every discriminator's result passes through `canon`. -/
theorem discriminatorNansAreCanonical : Obligations.DiscriminatorNansAreCanonical := by
  intro i s t hdisc h hnan
  rcases hdisc with rfl | rfl | rfl | rfl <;> cases h <;> exact eq_nan64_of_canon hnan

/-! ### Swapped timestamps (R210) -/

/-- The difference taken the other way round is the opposite, where it is not 0. -/
theorem sub64_swap (hx : magBits x < infBits) (hy : magBits y < infBits) (hne : val64 x ≠ val64 y) :
    sub64 y x = neg64 (sub64 x y) := by
  have hopposite := (sub64_isRounding hx hy).neg
  rw [neg_sub] at hopposite
  exact (sub64_isRounding hy hx).unique hopposite (sub_ne_zero.2 hne.symm)

theorem roundBits_le (m : Nat) (e : Int) : roundBits m e ≤ infBits := by
  unfold roundBits roundBitsBy
  split
  · exact Nat.zero_le _
  · exact min_le_right _ _

theorem withSign_not_nan (neg : Bool) {bits : Nat} (h : bits ≤ infBits) : unpack64 (withSign neg bits) ≠ .nan :=
  not_nan_of_magBits_le (by rwa [magBits_withSign neg (h.trans_lt infBits_lt)])

theorem canon_withSign (neg : Bool) {bits : Nat} (h : bits ≤ infBits) : canon (withSign neg bits) = withSign neg bits :=
  canon_of_not_nan (withSign_not_nan neg h)

/-- The opposite of a value that is no NaN, as `div64` meets it in each of its cases. -/
theorem opposite_of_withSign (a b : Bool) {bits : Nat} (h : bits ≤ infBits) : withSign (a ^^ !b) bits =
    if unpack64 (withSign (a ^^ b) bits) = .nan then nan64 else neg64 (withSign (a ^^ b) bits) := by
  rw [if_neg (withSign_not_nan _ h), neg64_withSign _ (h.trans_lt infBits_lt), Bool.xor_not]

/-- A divisor's sign goes over to the quotient, unless that is a NaN. -/
theorem div64_neg64_right (x y : B64) :
    div64 x (neg64 y) = if unpack64 (div64 x y) = .nan then nan64 else neg64 (div64 x y) := by
  have hnan : nan64 = if unpack64 nan64 = .nan then nan64 else neg64 nan64 := (if_pos unpack64_nan64).symm
  unfold div64
  rw [unpack64_neg64_eq]
  cases unpack64 x with
  | nan => exact hnan
  | inf a =>
    cases unpack64 y with
    | nan => exact hnan
    | inf b => exact hnan
    | fin b m e => exact opposite_of_withSign a b le_rfl
  | fin a m1 e1 =>
    cases unpack64 y with
    | nan => exact hnan
    | inf b => exact opposite_of_withSign a b (Nat.zero_le _)
    | fin b m2 e2 =>
      simp only [Fp.opposite]
      by_cases hm2 : m2 = 0
      · by_cases hm1 : m1 = 0
        · simp only [if_pos hm2, if_pos hm1]; exact hnan
        · simp only [if_pos hm2, if_neg hm1]; exact opposite_of_withSign a b le_rfl
      · simp only [if_neg hm2]; exact opposite_of_withSign a b (roundBits_le _ _)

/-- The quotient by the opposite divisor, NaNs made canonical. -/
theorem canon_div64_neg64_right (x y : B64) : canon (div64 x (neg64 y)) =
    if canon (div64 x y) = nan64 then canon (div64 x y) else neg64 (canon (div64 x y)) := by
  rw [div64_neg64_right]
  by_cases h : unpack64 (div64 x y) = .nan
  · rw [if_pos h, canon_of_nan h, if_pos rfl]
    exact canon_of_nan unpack64_nan64
  · have hne : div64 x y ≠ nan64 := fun heq => h (heq ▸ unpack64_nan64)
    have hneg : unpack64 (neg64 (div64 x y)) ≠ .nan := unpack64_neg64_eq _ ▸ opposite_ne_nan h
    rw [if_neg h, canon_of_not_nan h, if_neg hne, canon_of_not_nan hneg]

/-- Settles O32: swapping the timestamps gives the divisor the opposite sign. -/
theorem swappingTimestampsNegatesFll : Obligations.SwappingTimestampsNegatesFll := by
  intro s r n1 n2 m1 m2 e1 e2 h1 h2 hne hexec u
  rw [realValue_of_unpack64 h1, realValue_of_unpack64 h2] at hne
  have hfin1 := (unpack64_eq_fin_iff.1 h1).1
  have hfin2 := (unpack64_eq_fin_iff.1 h2).1
  have hr : fllResult s.build (s.component 0) (s.component 1) (s.component 2) (s.component 3) s.argT1 s.argT2 = r := by
    rw [exec_discFll] at hexec
    exact congrArg State.res (Host.Outcome.next.inj hexec)
  have hkept : u.component 0 = s.component 0 ∧ u.component 1 = s.component 1 ∧ u.component 2 = s.component 2 ∧
      u.component 3 = s.component 3 := by
    simp [u, State.component, State.argB32, State.arg_setArg_ne]
  have hswap : u.argT1 = s.argT2 ∧ u.argT2 = s.argT1 := by
    simp [u, State.argT1, State.argT2, State.arg_setArg_ne]
  obtain ⟨h0, h1, h2, h3⟩ := hkept
  have hsub : sub64 s.argT2 s.argT1 = neg64 (sub64 s.argT1 s.argT2) := sub64_swap hfin1 hfin2 hne
  rw [exec_discFll, h0, h1, h2, h3, hswap.1, hswap.2, ← hr, fllResult, hsub, canon_div64_neg64_right]
  rfl

/-! ### The signs of the components (R213) -/

/-- Flipping the sign bit of a binary32 is taking the opposite value. -/
theorem unpack32_xor_sign (w : B32) : unpack32 (w ^^^ 0x80000000#32) = (unpack32 w).opposite := by
  have hfrac : (w ^^^ 0x80000000#32).extractLsb' 0 23 = w.extractLsb' 0 23 := by
    rw [BitVec.extractLsb'_xor, show (0x80000000#32 : Word).extractLsb' 0 23 = 0#23 by decide, BitVec.xor_zero]
  have hex : (w ^^^ 0x80000000#32).extractLsb' 23 8 = w.extractLsb' 23 8 := by
    rw [BitVec.extractLsb'_xor, show (0x80000000#32 : Word).extractLsb' 23 8 = 0#8 by decide, BitVec.xor_zero]
  have hsign : (w ^^^ 0x80000000#32).getLsbD 31 = !w.getLsbD 31 := by
    rw [BitVec.getLsbD_xor, show (0x80000000#32 : Word).getLsbD 31 = true by decide, Bool.xor_true]
  unfold unpack32
  rw [hfrac, hex, hsign]
  dsimp only
  split
  · split <;> rfl
  · split <;> rfl

theorem pack64_opposite (f : Fp) : pack64 f.opposite = if f = .nan then nan64 else neg64 (pack64 f) := by
  cases f with
  | nan => rfl
  | inf neg => rw [if_neg (by simp)]; exact (neg64_withSign neg infBits_lt).symm
  | fin neg m e => rw [if_neg (by simp)]; exact (neg64_withSign neg ((roundBits_le m e).trans_lt infBits_lt)).symm

theorem mul64_neg64_self (x : B64) : mul64 (neg64 x) (neg64 x) = mul64 x x := by
  unfold mul64
  rw [unpack64_neg64_eq]
  cases unpack64 x <;> simp [Fp.opposite]

/-- A component's square does not show its sign. -/
theorem square_xor_sign (w : B32) :
    mul64 (to64 (w ^^^ 0x80000000#32)) (to64 (w ^^^ 0x80000000#32)) = mul64 (to64 w) (to64 w) := by
  unfold to64
  rw [unpack32_xor_sign, pack64_opposite]
  split
  · rename_i h; rw [h]; rfl
  · exact mul64_neg64_self _

theorem square_flip (f : Bool) (w : B32) :
    mul64 (to64 (if f then w ^^^ 0x80000000#32 else w)) (to64 (if f then w ^^^ 0x80000000#32 else w)) =
      mul64 (to64 w) (to64 w) := by
  cases f
  · rfl
  · exact square_xor_sign w

/-- Settles O33: the components enter the envelopes by their squares. -/
theorem dllIgnoresComponentSigns : Obligations.DllIgnoresComponentSigns := by
  intro s t f0 f1 f2 f3 hexec flip
  rw [exec_discDll] at hexec
  cases hexec
  refine ⟨_, exec_discDll _, ?_⟩
  simp only [State.setRes_res, dllResult, envelope, State.component, State.argB32]
  simp [State.arg_setArg_ne, flip, square_flip]

end Sys2Proof.Machine
end

section
/-! PROOFS. The degenerate inputs of the phase discriminators (R211, R212). -/

namespace Sys2Proof.Machine

open Sys2Proof.Claims

variable {s : State} {x y : B64} {w : B32}

/-! ### A widened component by its magnitude bits -/

theorem fields_of_binary32 (w : B32) : (w.extractLsb' 23 8).toNat = w.toNat % 2 ^ 31 / 2 ^ 23 ∧
    (w.extractLsb' 0 23).toNat = w.toNat % 2 ^ 31 % 2 ^ 23 := by
  rw [BitVec.extractLsb'_toNat, BitVec.extractLsb'_toNat, Nat.shiftRight_eq_div_pow]
  omega

theorem to64_of_gt (h : 0x7F800000 < w.toNat % 2 ^ 31) : to64 w = nan64 := by
  obtain ⟨hex, hfrac⟩ := fields_of_binary32 w
  have hexp : (w.extractLsb' 23 8).toNat = 255 := by omega
  have hne : (w.extractLsb' 0 23).toNat ≠ 0 := by omega
  simp only [to64, unpack32, if_pos hexp, if_neg hne, pack64]

theorem to64_of_eq (h : w.toNat % 2 ^ 31 = 0x7F800000) : to64 w = withSign (w.getLsbD 31) infBits := by
  obtain ⟨hex, hfrac⟩ := fields_of_binary32 w
  have hexp : (w.extractLsb' 23 8).toNat = 255 := by omega
  have hzero : (w.extractLsb' 0 23).toNat = 0 := by omega
  simp only [to64, unpack32, if_pos hexp, if_pos hzero, pack64]

theorem unpack64_to64_of_eq (h : w.toNat % 2 ^ 31 = 0x7F800000) : unpack64 (to64 w) = .inf (w.getLsbD 31) := by
  rw [to64_of_eq h, unpack64_of_eq (magBits_withSign _ infBits_lt), sign64_withSign]

theorem exists_unpack32_of_lt (h : w.toNat % 2 ^ 31 < 0x7F800000) : ∃ m e, unpack32 w = .fin (w.getLsbD 31) m e := by
  obtain ⟨hex, -⟩ := fields_of_binary32 w
  have hexp : (w.extractLsb' 23 8).toNat ≠ 255 := by omega
  simp only [unpack32, if_neg hexp]
  split
  · exact ⟨_, _, rfl⟩
  · exact ⟨_, _, rfl⟩

theorem realValue_eq_zero_iff {neg : Bool} {m : Nat} {e : Int} : realValue neg m e = 0 ↔ m = 0 := by
  have hpow : (2 : ℝ) ^ e ≠ 0 := by positivity
  cases neg <;> simp [realValue, hpow]

theorem to64_of_lt (h : w.toNat % 2 ^ 31 < 0x7F800000) : magBits (to64 w) < infBits ∧
    sign64 (to64 w) = w.getLsbD 31 ∧ (magBits (to64 w) = 0 ↔ w.toNat % 2 ^ 31 = 0) := by
  obtain ⟨m, e, hw⟩ := exists_unpack32_of_lt h
  obtain ⟨-, -, -, -, hzero⟩ := unpack32_bounds hw
  obtain ⟨hfin, hsign, hval⟩ := to64_of_fin hw
  exact ⟨hfin, hsign, by rw [← val64_eq_zero_iff, hval, realValue_eq_zero_iff, hzero]⟩

/-- Up to infinity a component keeps its sign, is no NaN, and is infinite or zero only where its pattern says so. -/
theorem to64_of_le (h : w.toNat % 2 ^ 31 ≤ 0x7F800000) : unpack64 (to64 w) ≠ .nan ∧
    sign64 (to64 w) = w.getLsbD 31 ∧ (magBits (to64 w) = 0 ↔ w.toNat % 2 ^ 31 = 0) := by
  rcases Nat.lt_or_eq_of_le h with hlt | heq
  · obtain ⟨hfin, hrest⟩ := to64_of_lt hlt
    exact ⟨not_nan_of_magBits_le hfin.le, hrest⟩
  · have hne : infBits ≠ 0 := by decide
    rw [to64_of_eq heq, sign64_withSign, magBits_withSign _ infBits_lt, heq]
    exact ⟨withSign_not_nan _ le_rfl, rfl, by simp [hne]⟩

/-! ### The quotient of DISC_COSTAS -/

theorem div64_of_zero_right (hx : unpack64 x ≠ .nan) (hx0 : magBits x ≠ 0) (hy : magBits y = 0) :
    div64 x y = withSign (sign64 x ^^ sign64 y) infBits := by
  have hyu := unpack64_of_lt (show magBits y < infBits from hy ▸ (by decide))
  rcases Nat.eq_or_lt_of_le (magBits_le_of_not_nan hx) with hinf | hfin
  · obtain ⟨-, -, -, -, hdiv, -⟩ := operations_of_inf_fin (unpack64_of_eq hinf) hyu
    exact hdiv
  · have hxm : finMant (magBits x) ≠ 0 := fun h => hx0 (finMant_eq_zero_iff.1 h)
    simp only [div64, unpack64_of_lt hfin, hyu, if_pos (finMant_eq_zero_iff.2 hy), if_neg hxm]

theorem div64_zero_zero (hx : magBits x = 0) (hy : magBits y = 0) : div64 x y = nan64 := by
  have hxu := unpack64_of_lt (show magBits x < infBits from hx ▸ (by decide))
  have hyu := unpack64_of_lt (show magBits y < infBits from hy ▸ (by decide))
  simp only [div64, hxu, hyu, if_pos (finMant_eq_zero_iff.2 hx), if_pos (finMant_eq_zero_iff.2 hy)]

theorem canon_nan64 : canon nan64 = nan64 := canon_of_nan unpack64_nan64

theorem atan_nan64 (b : Build) : atan b nan64 = nan64 := atan_of_nan b unpack64_nan64

theorem atan_withSign_infBits (b : Build) (neg : Bool) :
    canon (atan b (withSign neg infBits)) = withSign neg 0x3FF921FB54442D18 := by
  obtain ⟨-, -, -, -, hinf⟩ := arctangentSpecialCases b (withSign neg infBits) 0
  rw [hinf (magBits_withSign _ infBits_lt), sign64_withSign]
  exact canon_withSign _ (by decide)

/-- Settles O36: R211's and R212's corners are special cases of the quotient and of the arctangents. -/
theorem phaseDiscriminatorCorners : Obligations.PhaseDiscriminatorCorners := by
  intro s
  refine ⟨_, _, exec_discPll4q s, exec_discCostas s, ?_⟩
  simp only [State.setRes_res, State.component, State.argB32]
  generalize s.arg 0 = wi
  generalize s.arg 1 = wq
  obtain ⟨-, hspecial, -⟩ := arctangentSpecialCases s.build (to64 wi) (to64 wq)
  refine ⟨fun hq hi => ?_, fun hi hq hqle => ?_, fun hi hq => ?_, fun hi hq => ?_, fun hi hq => ?_, fun h => ?_⟩
  · obtain ⟨hqnan, hqsign, hqzero⟩ := to64_of_le (w := wq) (by omega)
    obtain ⟨hinan, hisign, -⟩ := to64_of_le hi
    obtain ⟨hzero, -⟩ := hspecial hqnan hinan
    have hbits : ∀ neg : Bool, (if neg then 0x400921FB54442D18 else 0) ≤ infBits := by decide
    rw [hzero (hqzero.2 hq), hqsign, hisign]
    exact canon_withSign _ (hbits _)
  · obtain ⟨hqnan, hqsign, hqzero⟩ := to64_of_le hqle
    obtain ⟨hinan, hisign, hizero⟩ := to64_of_le (w := wi) (by omega)
    obtain ⟨-, haxis, -⟩ := hspecial hqnan hinan
    have hq0 : magBits (to64 wq) ≠ 0 := fun h => hq (hqzero.1 h)
    rw [haxis hq0 (hizero.2 hi), div64_of_zero_right hqnan hq0 (hizero.2 hi), hqsign, hisign]
    exact ⟨canon_withSign _ (by decide), atan_withSign_infBits _ _⟩
  · obtain ⟨-, -, hqzero⟩ := to64_of_le (w := wq) (by omega)
    obtain ⟨-, -, hizero⟩ := to64_of_le (w := wi) (by omega)
    rw [div64_zero_zero (hqzero.2 hq) (hizero.2 hi), atan_nan64]
    exact canon_nan64
  · obtain ⟨hqfin, hqsign, -⟩ := to64_of_lt hq
    obtain ⟨-, -, -, -, -, hdiv, -⟩ := operations_of_inf_fin (unpack64_to64_of_eq hi) (unpack64_of_lt hqfin)
    obtain ⟨-, -, -, hsame, -⟩ := arctangentSpecialCases s.build (withSign (wq.getLsbD 31 ^^ wi.getLsbD 31) 0) 0
    rw [hdiv, hqsign, hsame (magBits_withSign _ (by decide))]
    exact canon_withSign _ (Nat.zero_le _)
  · obtain ⟨-, -, -, hdiv⟩ := operations_of_inf_inf (unpack64_to64_of_eq hq) (unpack64_to64_of_eq hi)
    rw [hdiv, atan_nan64]
    exact canon_nan64
  · have hnan : unpack64 (to64 wq) = .nan ∨ unpack64 (to64 wi) = .nan :=
      h.symm.imp (fun h => to64_of_gt h ▸ unpack64_nan64) (fun h => to64_of_gt h ▸ unpack64_nan64)
    obtain ⟨-, -, -, hdiv⟩ := operations_of_nan hnan
    rw [atan2_of_nan _ hnan, hdiv, atan_nan64]
    exact ⟨canon_nan64, canon_nan64⟩

end Sys2Proof.Machine
end

section
/-! PROOFS. The range of DISC_DLL (R213). -/

namespace Sys2Proof.Machine

open Sys2Proof.Claims

variable {s : State} {x y r : B64} {w w' : B32} {v : ℝ}

/-! ### Roundings of numbers of a known sign or size -/

theorem IsRounding.magBits_eq_zero (h : IsRounding v r) (hv : v = 0) : magBits r = 0 :=
  Nat.le_zero.1 (h.magBits_le (by rw [hv, abs_zero, magValue_zero]))

/-- The least magnitude above 0 does not round to 0. -/
theorem IsRounding.magBits_ne_zero (h : IsRounding v r) (hv : (2 : ℝ) ^ (-1074 : Int) ≤ |v|) : magBits r ≠ 0 :=
  Nat.one_le_iff_ne_zero.1 (h.le_magBits (by decide) (magValue_one.trans_le hv))

theorem IsRounding.sign_or_zero (h : IsRounding v r) (hv : 0 ≤ v) : sign64 r = false ∨ magBits r = 0 := by
  by_cases h0 : v = 0
  · exact .inr (h.magBits_eq_zero h0)
  · exact .inl (Bool.eq_false_iff.2 fun hneg => hv.not_gt ((h.sign64_eq h0).1 hneg))

theorem val64_nonneg_of_sign_or_zero (h : sign64 x = false ∨ magBits x = 0) : 0 ≤ val64 x := by
  rcases h with hsign | hzero
  · rw [val64, hsign]
    simpa using magValue_nonneg (magBits x)
  · exact (val64_eq_zero_iff.2 hzero).ge

theorem IsRounding.magBits_mono {v' : ℝ} {r' : B64} (h : IsRounding v r) (h' : IsRounding v' r') (hle : |v| ≤ |v'|) :
    magBits r ≤ magBits r' := by
  obtain ⟨neg, b, rfl, hb, -⟩ := h
  obtain ⟨neg', b', rfl, hb', -⟩ := h'
  rw [magBits_withSign_min, magBits_withSign_min]
  exact min_le_min_right _ (hb.mono hb' hle)

theorem abs_val64_le (h : magBits x ≤ magBits y) : |val64 x| ≤ |val64 y| := by
  rw [abs_val64, abs_val64]
  exact magValue_strictMono.monotone h

theorem two_zpow_le_abs_val64 (h : magBits x ≠ 0) : (2 : ℝ) ^ (-1074 : Int) ≤ |val64 x| := by
  rw [abs_val64, ← magValue_one]
  exact magValue_strictMono.monotone (Nat.one_le_iff_ne_zero.2 h)

/-! ### The square of a component -/

/-- The square of a finite component is exact, at most 2^256, and 0 or at least 2^(−298). -/
theorem square_bounds {m : Nat} {e : Int} {neg : Bool} (h : unpack32 w = .fin neg m e) :
    magBits (mul64 (to64 w) (to64 w)) < infBits ∧ 0 ≤ val64 (mul64 (to64 w) (to64 w)) ∧
      val64 (mul64 (to64 w) (to64 w)) ≤ 2 ^ 256 ∧
      (w.toNat % 2 ^ 31 = 0 → val64 (mul64 (to64 w) (to64 w)) = 0) ∧
      (w.toNat % 2 ^ 31 ≠ 0 → (2 : ℝ) ^ (-1074 : Int) ≤ val64 (mul64 (to64 w) (to64 w))) := by
  obtain ⟨-, hm, hmin, hmax, hzero⟩ := unpack32_bounds h
  obtain ⟨hfin, -, hval⟩ := mul64_to64_exact h h
  have hsquare : realValue neg m e * realValue neg m e = ((m : ℝ) * 2 ^ e) ^ 2 := by
    cases neg <;> simp [realValue] <;> ring
  rw [hval, hsquare]
  refine ⟨hfin, sq_nonneg _, ?_, fun h0 => by simp [hzero.2 h0], fun h0 => ?_⟩
  · have hle : (m : ℝ) * 2 ^ e ≤ 2 ^ 128 := by
      calc (m : ℝ) * 2 ^ e ≤ 2 ^ 24 * 2 ^ (104 : Int) := by
            gcongr
            · exact_mod_cast hm.le
            · norm_num
        _ = 2 ^ 128 := by norm_num
    calc ((m : ℝ) * 2 ^ e) ^ 2 ≤ (2 ^ 128) ^ 2 := pow_le_pow_left₀ (by positivity) hle 2
      _ = 2 ^ 256 := by norm_num
  · have hge : (2 : ℝ) ^ (-149 : Int) ≤ m * 2 ^ e := by
      calc (2 : ℝ) ^ (-149 : Int) = 1 * 2 ^ (-149 : Int) := (one_mul _).symm
        _ ≤ m * 2 ^ e := by
            gcongr
            · exact_mod_cast Nat.one_le_iff_ne_zero.2 fun hm0 => h0 (hzero.1 hm0)
            · norm_num
    calc (2 : ℝ) ^ (-1074 : Int) ≤ 2 ^ (-298 : Int) := zpow_le_zpow_right₀ (by norm_num) (by norm_num)
      _ = ((2 : ℝ) ^ (-149 : Int)) ^ 2 := by rw [← zpow_natCast, ← zpow_mul]; rfl
      _ ≤ ((m : ℝ) * 2 ^ e) ^ 2 := pow_le_pow_left₀ (by positivity) hge 2

/-! ### The envelope of two components -/

/-- The root of a finite value that is not negative. -/
theorem sqrt64_bounds (hfin : magBits x < infBits) (hsign : sign64 x = false ∨ magBits x = 0)
    (hle : val64 x ≤ 2 ^ 258) : magBits (sqrt64 x) < infBits ∧ 0 ≤ val64 (sqrt64 x) ∧ val64 (sqrt64 x) ≤ 2 ^ 129 ∧
      (magBits (sqrt64 x) = 0 ↔ magBits x = 0) := by
  have hroot := sqrt64_isRounding hfin hsign
  have hnonneg := Real.sqrt_nonneg (val64 x)
  have hbound : |√(val64 x)| ≤ 2 ^ 129 := by
    rw [abs_of_nonneg hnonneg]
    exact Real.sqrt_le_iff.2 ⟨by positivity, hle.trans_eq (by rw [← pow_mul])⟩
  obtain ⟨hrfin, hrle⟩ := hroot.bounded (by norm_num) hbound
  refine ⟨hrfin, val64_nonneg_of_sign_or_zero (hroot.sign_or_zero hnonneg), (le_abs_self _).trans hrle, fun h => ?_,
    fun h => by rwa [sqrt64_of_magBits_zero h]⟩
  by_contra hx
  have hpos := two_zpow_le_abs_val64 hx
  rw [abs_of_nonneg (val64_nonneg_of_sign_or_zero hsign)] at hpos
  refine hroot.magBits_ne_zero ?_ h
  rw [abs_of_nonneg hnonneg]
  refine Real.le_sqrt_of_sq_le (le_trans ?_ hpos)
  rw [← zpow_natCast, ← zpow_mul]
  exact zpow_le_zpow_right₀ (by norm_num) (by norm_num)

/-- The envelope of finite components is finite, not negative, and 0 only where both components are. -/
theorem envelope_bounds {n n' : Bool} {m m' : Nat} {e e' : Int} (h : unpack32 w = .fin n m e)
    (h' : unpack32 w' = .fin n' m' e') :
    magBits (envelope (to64 w) (to64 w')) < infBits ∧ 0 ≤ val64 (envelope (to64 w) (to64 w')) ∧
      val64 (envelope (to64 w) (to64 w')) ≤ 2 ^ 129 ∧
      (magBits (envelope (to64 w) (to64 w')) = 0 ↔ w.toNat % 2 ^ 31 = 0 ∧ w'.toNat % 2 ^ 31 = 0) := by
  obtain ⟨hfin, hnonneg, hle, hzero, hpos⟩ := square_bounds h
  obtain ⟨hfin', hnonneg', hle', hzero', hpos'⟩ := square_bounds h'
  have hsum := add64_isRounding hfin hfin'
  have hsign := hsum.sign_or_zero (add_nonneg hnonneg hnonneg')
  have hbound : |val64 (mul64 (to64 w) (to64 w)) + val64 (mul64 (to64 w') (to64 w'))| ≤ (2 : ℝ) ^ 258 := by
    have hpow : (2 : ℝ) ^ 258 = 2 ^ 256 * 4 := by rw [show 258 = 256 + 2 from rfl, pow_add]; norm_num
    rw [abs_of_nonneg (add_nonneg hnonneg hnonneg'), hpow]
    linarith [pow_pos (zero_lt_two (α := ℝ)) 256]
  obtain ⟨hsfin, hsle⟩ := hsum.bounded (by norm_num) hbound
  obtain ⟨hrfin, hrnonneg, hrle, hrzero⟩ := sqrt64_bounds hsfin hsign ((le_abs_self _).trans hsle)
  refine ⟨hrfin, hrnonneg, hrle, hrzero.trans ⟨fun hs => ?_, fun ⟨h0, h0'⟩ => ?_⟩⟩
  · have hlt : |val64 (mul64 (to64 w) (to64 w)) + val64 (mul64 (to64 w') (to64 w'))| < (2 : ℝ) ^ (-1074 : Int) :=
      lt_of_not_ge fun hge => hsum.magBits_ne_zero hge hs
    rw [abs_of_nonneg (add_nonneg hnonneg hnonneg')] at hlt
    exact ⟨by_contra fun h0 => by linarith [hpos h0], by_contra fun h0 => by linarith [hpos' h0]⟩
  · exact hsum.magBits_eq_zero (by rw [hzero h0, hzero' h0', add_zero])

/-! ### The quotient of the envelopes' difference by their sum -/

theorem div64_sub_add_zero (hx : magBits x = 0) (hy : magBits y = 0) : div64 (sub64 x y) (add64 x y) = nan64 := by
  have hxfin : magBits x < infBits := hx ▸ (by decide)
  have hyfin : magBits y < infBits := hy ▸ (by decide)
  have hxval := val64_eq_zero_iff.2 hx
  have hyval := val64_eq_zero_iff.2 hy
  exact div64_zero_zero ((sub64_isRounding hxfin hyfin).magBits_eq_zero (by rw [hxval, hyval, sub_zero]))
    ((add64_isRounding hxfin hyfin).magBits_eq_zero (by rw [hxval, hyval, add_zero]))

/-- |x − y| ≤ x + y survives the two roundings, so that the quotient stays within 1. -/
theorem magBits_div64_sub_add_le (hxfin : magBits x < infBits) (hyfin : magBits y < infBits) (hx : 0 ≤ val64 x)
    (hy : 0 ≤ val64 y) (hxle : val64 x ≤ 2 ^ 129) (hyle : val64 y ≤ 2 ^ 129) (hne : ¬ (magBits x = 0 ∧ magBits y = 0)) :
    magBits (div64 (sub64 x y) (add64 x y)) ≤ 0x3FF0000000000000 := by
  have hdiff := sub64_isRounding hxfin hyfin
  have hsum := add64_isRounding hxfin hyfin
  have habs : |val64 x - val64 y| ≤ val64 x + val64 y := abs_le.2 ⟨by linarith, by linarith⟩
  have hsumabs : |val64 x + val64 y| = val64 x + val64 y := abs_of_nonneg (add_nonneg hx hy)
  have hle : magBits (sub64 x y) ≤ magBits (add64 x y) := hdiff.magBits_mono hsum (habs.trans hsumabs.ge)
  obtain ⟨hsfin, -⟩ := hsum.bounded (k := 130) (by norm_num) (by rw [hsumabs]; linarith)
  have hs0 : magBits (add64 x y) ≠ 0 := by
    refine hsum.magBits_ne_zero ?_
    rw [hsumabs]
    by_cases hx0 : magBits x = 0
    · have hge := two_zpow_le_abs_val64 fun hy0 => hne ⟨hx0, hy0⟩
      rw [abs_of_nonneg hy] at hge
      linarith
    · have hge := two_zpow_le_abs_val64 hx0
      rw [abs_of_nonneg hx] at hge
      linarith
  have hquot : |val64 (sub64 x y) / val64 (add64 x y)| ≤ magValue ((0 + 1023) * 2 ^ 52) := by
    rw [magValue_two_pow, pow_zero, abs_div]
    exact div_le_one_of_le₀ (abs_val64_le hle) (abs_nonneg _)
  exact (div64_isRounding (hle.trans_lt hsfin) hsfin hs0).magBits_le hquot

/-- Settles O34. -/
theorem dllStaysBetweenMinusOneAndOne : Obligations.DllStaysBetweenMinusOneAndOne := by
  intro s hfin
  obtain ⟨n0, m0, e0, h0⟩ := hfin 0 (by decide)
  obtain ⟨n1, m1, e1, h1⟩ := hfin 1 (by decide)
  obtain ⟨n2, m2, e2, h2⟩ := hfin 2 (by decide)
  obtain ⟨n3, m3, e3, h3⟩ := hfin 3 (by decide)
  obtain ⟨hefin, henonneg, hele, hezero⟩ := envelope_bounds h0 h1
  obtain ⟨hlfin, hlnonneg, hlle, hlzero⟩ := envelope_bounds h2 h3
  refine ⟨_, exec_discDll s, fun hzero => ?_, fun hzero => ?_⟩
  · have he := hezero.2 ⟨hzero 0 (by decide), hzero 1 (by decide)⟩
    have hl := hlzero.2 ⟨hzero 2 (by decide), hzero 3 (by decide)⟩
    simp only [State.setRes_res, dllResult, State.component, State.argB32, div64_sub_add_zero he hl]
    exact canon_nan64
  · have hne : ¬ (magBits (envelope (to64 (s.arg 0)) (to64 (s.arg 1))) = 0 ∧
        magBits (envelope (to64 (s.arg 2)) (to64 (s.arg 3))) = 0) := by
      rw [hezero, hlzero]
      rintro ⟨⟨hz0, hz1⟩, hz2, hz3⟩
      refine hzero fun i hi => ?_
      have hcases : i = 0 ∨ i = 1 ∨ i = 2 ∨ i = 3 := by omega
      rcases hcases with rfl | rfl | rfl | rfl
      · exact hz0
      · exact hz1
      · exact hz2
      · exact hz3
    have hle := magBits_div64_sub_add_le hefin hlfin henonneg hlnonneg hele hlle hne
    simp only [State.setRes_res, dllResult, State.component, State.argB32]
    rw [canon_of_not_nan (not_nan_of_magBits_le (hle.trans (by decide)))]
    exact hle

end Sys2Proof.Machine
end

section
/-! PROOFS. The document's literal discriminator cases (R214). -/

namespace Sys2Proof.Machine

open Sys2Proof.Claims

variable {s : State}

/-- An enclosure settles the rounding at its first precision where both ends agree. -/
theorem Angle.settled_cons_of_agree {g : Angle} {round : Nat → Int → Nat} {P v : Nat} (finer : List Nat)
    (hlow : round (g.low P) (-(g.scale P : Int)) = v) (hhigh : round (g.high P) (-(g.scale P : Int)) = v) :
    g.settled round (P :: finer) = some v := by
  rw [Angle.settled, hlow, hhigh, if_pos rfl]

/-- The angle of the point (1, 1). -/
def diagonal : Angle := angleOf (2 ^ 52) (-52) false (2 ^ 52) (-52)

theorem diagonal_settled_nearest : diagonal.settled roundBits arctanPrecisions = some quarterPiBits :=
  Angle.settled_cons_of_agree _ (by decide +kernel) (by decide +kernel)

theorem diagonal_settled_floor : diagonal.settled floorBits arctanPrecisions = some quarterPiBits :=
  Angle.settled_cons_of_agree _ (by decide +kernel) (by decide +kernel)

/-- π/4 begins no binade, so that only it and its upper neighbour are admitted. -/
theorem eq_or_eq_succ_of_diagonal_admits {bits : Nat} (h : diagonal.admits bits = true) :
    bits = quarterPiBits ∨ bits = quarterPiBits + 1 := by
  obtain ⟨f, hf, hwithin⟩ := (Angle.admits_iff _ bits).1 h
  cases diagonal_settled_floor.symm.trans hf
  rcases (withinUlp_iff _ _ _).1 hwithin with heq | heq | ⟨-, hstart, -⟩
  · exact .inl heq
  · exact .inr heq
  · exact absurd hstart (by decide)

theorem diagonal_value_cases (reference : Bool) (proposal : B64) :
    diagonal.value reference proposal piBits = withSign false quarterPiBits ∨
      reference = false ∧ diagonal.value reference proposal piBits = withSign false (quarterPiBits + 1) := by
  rcases diagonal.value_cases reference proposal piBits with hv | ⟨href, hadmits, hv⟩
  · rw [hv, Angle.nearestBits_of_settled _ diagonal_settled_nearest]
    exact .inl (by decide)
  · rcases eq_or_eq_succ_of_diagonal_admits hadmits with heq | heq
    · rw [hv, heq]
      exact .inl (by rw [show decide (quarterPiBits = 0) = false by decide, Bool.and_false]; decide)
    · rw [hv, heq]
      exact .inr ⟨href, by rw [show decide (quarterPiBits + 1 = 0) = false by decide, Bool.and_false]; decide⟩

theorem to64_one : to64 0x3F800000#32 = 0x3FF0000000000000#64 := by decide +kernel

theorem unpack64_one : unpack64 0x3FF0000000000000#64 = .fin false (2 ^ 52) (-52) := by decide

theorem atan2_one_one (b : Build) : atan2 b 0x3FF0000000000000#64 0x3FF0000000000000#64 =
    diagonal.value b.arctanReference (Config.atan2Proposal 0x3FF0000000000000#64 0x3FF0000000000000#64) piBits := by
  have hne : unpack64 0x3FF0000000000000#64 ≠ .nan := by decide
  rw [atan2_of_not_nan b hne hne, unpack64_one, show withSign false (magBits 0x3FF0000000000000#64) = 0x3FF0000000000000#64
    by decide]
  rfl

theorem atan2_one_one_cases (b : Build) :
    canon (atan2 b 0x3FF0000000000000#64 0x3FF0000000000000#64) = 0x3FE921FB54442D18#64 ∨ b.arctanReference = false ∧
      canon (atan2 b 0x3FF0000000000000#64 0x3FF0000000000000#64) = 0x3FE921FB54442D19#64 := by
  rw [atan2_one_one]
  rcases diagonal_value_cases b.arctanReference
    (Config.atan2Proposal 0x3FF0000000000000#64 0x3FF0000000000000#64) with hv | ⟨href, hv⟩
  · rw [hv]
    exact .inl (by decide)
  · rw [hv]
    exact .inr ⟨href, by decide⟩

/-- A quarter turn in −1 s, for every build: R201 (b) fixes ATAN2_64(1, 0). -/
theorem fllResult_quarter_turn (b : Build) : fllResult b (to64 0x3F800000#32) (to64 0#32) (to64 0#32) (to64 0x3F800000#32)
    0#64 0x3FF0000000000000#64 = 0xBFF921FB54442D18#64 := by
  have hcross : fllCross (to64 0x3F800000#32) (to64 0#32) (to64 0#32) (to64 0x3F800000#32) = 0x3FF0000000000000#64 := by
    decide +kernel
  have hdot : fllDot (to64 0x3F800000#32) (to64 0#32) (to64 0#32) (to64 0x3F800000#32) = 0#64 := by decide +kernel
  obtain ⟨-, hspecial, -⟩ := arctangentSpecialCases b 0#64 0x3FF0000000000000#64
  obtain ⟨-, haxis, -⟩ := hspecial (by decide) (by decide)
  rw [fllResult, hcross, hdot, haxis (by decide) (by decide)]
  decide +kernel

theorem dllResult_two_one : dllResult (to64 0x40000000#32) (to64 0#32) (to64 0x3F800000#32) (to64 0#32) =
    0x3FD5555555555555#64 := by decide +kernel

/-- Settles O25. -/
theorem literalDiscriminatorCases : Obligations.LiteralDiscriminatorCases := by
  intro s
  refine ⟨fun hargs => ?_, fun h0 h1 => ?_, fun h0 h1 h2 h3 => ?_⟩
  · have harg : ∀ i, s.arg i = (#v[0x3F800000#32, 0#32, 0#32, 0x3F800000#32, 0#32, 0#32, 0#32, 0x3FF00000#32] :
        Vector Word 8)[i.val] := fun i => by rw [← hargs]; rfl
    have hturn : fllResult s.build (s.component 0) (s.component 1) (s.component 2) (s.component 3) s.argT1 s.argT2 =
        0xBFF921FB54442D18#64 := by
      simp only [State.component, State.argB32, State.argT1, State.argT2, harg]
      exact fllResult_quarter_turn s.build
    rw [exec_discFll, hturn]
    rfl
  · have hexec : exec .discPll4q s =
        .next { s with res := canon (atan2 s.build 0x3FF0000000000000#64 0x3FF0000000000000#64) } := by
      rw [exec_discPll4q, State.component, State.component, State.argB32, State.argB32, h0, h1, to64_one]
      rfl
    rw [hexec]
    rcases atan2_one_one_cases s.build with hv | ⟨href, hv⟩
    · exact ⟨fun _ => by rw [hv], _, rfl, .inl hv⟩
    · exact ⟨fun h => absurd (href.symm.trans h) (by decide), _, rfl, .inr hv⟩
  · rw [exec_discDll, State.component, State.component, State.component, State.component, State.argB32, State.argB32,
      State.argB32, State.argB32, h0, h1, h2, h3, dllResult_two_one]
    rfl

end Sys2Proof.Machine
end

section
/-! PROOFS. The error of the arctangents' enclosures (R201 (a), R202 (a)): Taylor's series in truncated integer
arithmetic, and π by Machin's formula. -/

namespace Sys2Proof.Machine

open Sys2Proof.Claims Real

/-! ### The rest of Taylor's series -/

/-- What the series of the arctangent of `x` still has from its term x^(2n+1) / (2n+1) on, sign of that term aside. -/
noncomputable def arctanTail (x : ℝ) (n : Nat) : ℝ := ∫ u in (0 : ℝ)..x, u ^ (2 * n) * (1 + u ^ 2)⁻¹

theorem continuous_arctanTail_integrand (n : Nat) : Continuous fun u : ℝ => u ^ (2 * n) * (1 + u ^ 2)⁻¹ :=
  (continuous_pow _).mul ((by fun_prop : Continuous fun u : ℝ => 1 + u ^ 2).inv₀ fun u => by positivity)

theorem arctanTail_zero (x : ℝ) : arctanTail x 0 = arctan x := by
  simp [arctanTail, integral_inv_one_add_sq]

theorem arctanTail_nonneg {x : ℝ} (hx : 0 ≤ x) (n : Nat) : 0 ≤ arctanTail x n :=
  intervalIntegral.integral_nonneg hx fun u hu => by
    have := hu.1
    positivity

theorem arctanTail_eq (x : ℝ) (n : Nat) : arctanTail x n = x ^ (2 * n + 1) / (2 * n + 1) - arctanTail x (n + 1) := by
  rw [eq_sub_iff_add_eq, arctanTail, arctanTail,
    ← intervalIntegral.integral_add ((continuous_arctanTail_integrand n).intervalIntegrable _ _)
      ((continuous_arctanTail_integrand (n + 1)).intervalIntegrable _ _)]
  have hsum : ∀ u : ℝ, u ^ (2 * n) * (1 + u ^ 2)⁻¹ + u ^ (2 * (n + 1)) * (1 + u ^ 2)⁻¹ = u ^ (2 * n) := fun u => by
    have hne : 1 + u ^ 2 ≠ 0 := by positivity
    field_simp
    ring
  simp only [hsum, integral_pow]
  push_cast
  simp

/-- The rest is at most its first term. -/
theorem arctanTail_le {x : ℝ} (hx : 0 ≤ x) (n : Nat) : arctanTail x n ≤ x ^ (2 * n + 1) := by
  have hnext := arctanTail_nonneg hx (n + 1)
  have hdiv : x ^ (2 * n + 1) / (2 * n + 1) ≤ x ^ (2 * n + 1) := div_le_self (by positivity) (by linarith [Nat.cast_nonneg (α := ℝ) n])
  linarith [arctanTail_eq x n]

/-! ### Integer arithmetic that rounds down -/

/-- A natural difference is as near to a number that is not negative as the true difference is. -/
theorem abs_natSub_sub_le (p m : Nat) {V ε : ℝ} (hV : 0 ≤ V) (h : |(p : ℝ) - m - V| ≤ ε) :
    |((p - m : Nat) : ℝ) - V| ≤ ε := by
  rcases le_total m p with hle | hle
  · rwa [Nat.cast_sub hle]
  · have hcast : (p : ℝ) ≤ m := by exact_mod_cast hle
    rw [Nat.sub_eq_zero_of_le hle, Nat.cast_zero]
    rw [abs_le] at h ⊢
    constructor <;> linarith

theorem natDiv_bounds (p q : Nat) : ((p / q : Nat) : ℝ) ≤ p / q ∧ (p : ℝ) / q < (p / q : Nat) + 1 :=
  ⟨Nat.cast_div_le, by
    rw [← Nat.floor_div_eq_div (K := ℝ)]
    exact Nat.lt_floor_add_one _⟩

/-- `t` is `z` cut off, less than 2 below it. -/
def CutOff (t : Nat) (z : ℝ) : Prop := (t : ℝ) ≤ z ∧ z < t + 2

/-- A factor of at most 1/4 takes the error in as much as cutting the product off adds. -/
theorem CutOff.mul_div {t p q : Nat} {z : ℝ} (h : CutOff t z) (hq : 0 < q) (hpq : 4 * p ≤ q) :
    CutOff (t * p / q) (z * (p / q)) := by
  obtain ⟨hlow, hhigh⟩ := h
  obtain ⟨hdlow, hdhigh⟩ := natDiv_bounds (t * p) q
  have hq' : (0 : ℝ) < q := by exact_mod_cast hq
  have hratio : (p : ℝ) / q ≤ 1 / 4 := by
    rw [div_le_div_iff₀ hq' (by norm_num)]
    exact_mod_cast (by omega : p * 4 ≤ 1 * q)
  have hratio0 : (0 : ℝ) ≤ (p : ℝ) / q := by positivity
  rw [Nat.cast_mul, mul_div_assoc] at hdlow hdhigh
  constructor
  · exact hdlow.trans (mul_le_mul_of_nonneg_right hlow hratio0)
  · have hstep : (z - t) * ((p : ℝ) / q) ≤ 2 * (1 / 4) := mul_le_mul (by linarith) hratio hratio0 (by norm_num)
    linarith

/-- A term of the series: cut off, it is less than 3 below. -/
theorem CutOff.term {t : Nat} {z : ℝ} (h : CutOff t z) (n : Nat) :
    ((t / (2 * n + 1) : Nat) : ℝ) ≤ z / (2 * n + 1) ∧ z / (2 * n + 1) ≤ (t / (2 * n + 1) : Nat) + 3 := by
  obtain ⟨hlow, hhigh⟩ := h
  obtain ⟨hdlow, hdhigh⟩ := natDiv_bounds t (2 * n + 1)
  push_cast at hdlow hdhigh
  have hpos : (0 : ℝ) < 2 * n + 1 := by positivity
  refine ⟨hdlow.trans (by gcongr), ?_⟩
  have hle : z / (2 * n + 1) ≤ t / (2 * n + 1) + 2 := by
    calc z / (2 * n + 1) ≤ (t + 2) / (2 * n + 1) := by gcongr
      _ = t / (2 * n + 1) + 2 / (2 * n + 1) := add_div _ _ _
      _ ≤ t / (2 * n + 1) + 2 := by
          gcongr
          exact div_le_self (by norm_num) (by linarith [Nat.cast_nonneg (α := ℝ) n])
  linarith

/-! ### The sum -/

theorem ratio_le_half {a b : Nat} (hb : 0 < b) (hab : 2 * a ≤ b) : (a : ℝ) / b ≤ 1 / 2 := by
  rw [div_le_div_iff₀ (by exact_mod_cast hb) (by norm_num)]
  exact_mod_cast (by omega : a * 2 ≤ 1 * b)

section
variable {x T V ε : ℝ} {n : Nat}

/-- Where the rest of the series is below 2, the sums' difference stands for all of it. -/
theorem abs_natSub_sub_le_of_rest (plus minus : Nat) (hx : 0 ≤ x) (hT : 0 ≤ T) (hV : 0 ≤ V) (hterm : x ^ (2 * n + 1) * T ≤ 2)
    (h : |(plus : ℝ) - minus + arctanTail x n * T - V| ≤ ε) : |((plus - minus : Nat) : ℝ) - V| ≤ ε + 2 := by
  have hrest0 : 0 ≤ arctanTail x n * T := mul_nonneg (arctanTail_nonneg hx n) hT
  have hrest : arctanTail x n * T ≤ 2 := (mul_le_mul_of_nonneg_right (arctanTail_le hx n) hT).trans hterm
  refine abs_natSub_sub_le plus minus hV ?_
  rw [abs_le] at h ⊢
  constructor <;> linarith

/-- A round takes two terms of the rest into the sums, each at most 3 below what it is. -/
theorem abs_round_sub_le {t t1 : Nat} (plus minus : Nat) (ht : CutOff t (x ^ (2 * n + 1) * T))
    (ht1 : CutOff t1 (x ^ (2 * (n + 1) + 1) * T)) (h : |(plus : ℝ) - minus + arctanTail x n * T - V| ≤ ε) :
    |((plus + t / (2 * n + 1) : Nat) : ℝ) - (minus + t1 / (2 * (n + 1) + 1) : Nat) + arctanTail x (n + 2) * T - V| ≤
      ε + 3 := by
  obtain ⟨hplus, hplus'⟩ := ht.term n
  obtain ⟨hminus, hminus'⟩ := ht1.term (n + 1)
  have hrest : arctanTail x n * T = x ^ (2 * n + 1) * T / (2 * n + 1) -
      x ^ (2 * (n + 1) + 1) * T / (2 * (n + 1 : Nat) + 1) + arctanTail x (n + 2) * T := by
    rw [arctanTail_eq _ n, arctanTail_eq _ (n + 1)]
    ring
  rw [hrest] at h
  push_cast at hplus hplus' hminus hminus' h ⊢
  rw [abs_le] at h ⊢
  constructor <;> linarith

end

/-- The next power of the argument, cut off. -/
theorem CutOff.mul_sq {t a b j : Nat} {T : ℝ} (h : CutOff t (((a : ℝ) / b) ^ (2 * j + 1) * T)) (hb : 0 < b)
    (hab : 2 * a ≤ b) : CutOff (t * (a * a) / (b * b)) (((a : ℝ) / b) ^ (2 * (j + 1) + 1) * T) := by
  have hpow : ((a : ℝ) / b) ^ (2 * j + 1) * T * ((a * a : Nat) / (b * b : Nat)) =
      ((a : ℝ) / b) ^ (2 * (j + 1) + 1) * T := by
    push_cast
    ring
  exact hpow ▸ h.mul_div (Nat.mul_pos hb hb) (by nlinarith)

/-- `taylorSum` goes on from sums that with the rest of the series make `V`, up to `ε`: each round adds at most 3 to the
error, and the end, where the rest is below 2, at most 2. -/
theorem abs_taylorSum_sub_le {a b : Nat} (hb : 0 < b) (hab : 2 * a ≤ b) {T V : ℝ} (hT : 0 ≤ T) (hV : 0 ≤ V) :
    ∀ (rounds n t plus minus : Nat) (ε : ℝ), CutOff t (((a : ℝ) / b) ^ (2 * n + 1) * T) →
      ((a : ℝ) / b) ^ (2 * (n + 2 * rounds) + 1) * T ≤ 2 →
      |(plus : ℝ) - minus + arctanTail ((a : ℝ) / b) n * T - V| ≤ ε →
      |(taylorSum (a * a) (b * b) rounds n t plus minus : ℝ) - V| ≤ ε + 3 * rounds + 2 := by
  have hx : (0 : ℝ) ≤ (a : ℝ) / b := by positivity
  intro rounds
  induction rounds with
  | zero =>
    intro n t plus minus ε _ hend h
    simpa [taylorSum] using abs_natSub_sub_le_of_rest plus minus hx hT hV hend h
  | succ k ih =>
    intro n t plus minus ε ht hend h
    rw [taylorSum]
    split
    case isTrue ht0 =>
      have hterm : ((a : ℝ) / b) ^ (2 * n + 1) * T ≤ 2 := by simpa [ht0] using ht.2.le
      push_cast
      linarith [abs_natSub_sub_le_of_rest plus minus hx hT hV hterm h, Nat.cast_nonneg (α := ℝ) k]
    case isFalse =>
      have ht1 := ht.mul_sq hb hab
      have hend' : ((a : ℝ) / b) ^ (2 * (n + 2 + 2 * k) + 1) * T ≤ 2 := by
        rwa [show n + 2 + 2 * k = n + 2 * (k + 1) by ring]
      refine (ih (n + 2) _ _ _ (ε + 3) (ht1.mul_sq hb hab) hend' (abs_round_sub_le plus minus ht ht1 h)).trans_eq ?_
      push_cast
      ring

theorem taylorRounds_bounds (P : Nat) : 8 ≤ taylorRounds P ∧ P ≤ 4 * taylorRounds P := by
  unfold taylorRounds; omega

/-- An arctangent's series of `P` bits. -/
theorem abs_arctanScaled_sub_le {P F a b : Nat} (hb : 0 < b) (hab : 2 * a ≤ b) (hF : (a : ℝ) / b * 2 ^ F ≤ 2 ^ (P + 1)) :
    |(arctanScaled P F a b : ℝ) - arctan ((a : ℝ) / b) * 2 ^ F| ≤ 4 * taylorRounds P := by
  obtain ⟨hrounds, hbits⟩ := taylorRounds_bounds P
  have hx : (0 : ℝ) ≤ (a : ℝ) / b := by positivity
  have hhalf := ratio_le_half hb hab
  have hstart : CutOff (a * 2 ^ F / b) (((a : ℝ) / b) ^ (2 * 0 + 1) * 2 ^ F) := by
    obtain ⟨hlow, hhigh⟩ := natDiv_bounds (a * 2 ^ F) b
    have heq : ((a : ℝ) / b) ^ (2 * 0 + 1) * 2 ^ F = ((a * 2 ^ F : Nat) : ℝ) / b := by push_cast; ring
    rw [heq]
    exact ⟨hlow, by linarith⟩
  have hend : ((a : ℝ) / b) ^ (2 * (0 + 2 * taylorRounds P) + 1) * 2 ^ F ≤ 2 := by
    calc ((a : ℝ) / b) ^ (2 * (0 + 2 * taylorRounds P) + 1) * 2 ^ F
        = ((a : ℝ) / b) ^ (4 * taylorRounds P) * ((a : ℝ) / b * 2 ^ F) := by ring
      _ ≤ (1 / 2) ^ (4 * taylorRounds P) * 2 ^ (P + 1) := by gcongr
      _ ≤ (1 / 2) ^ (4 * taylorRounds P) * 2 ^ (4 * taylorRounds P + 1) := by
          gcongr
          · norm_num
      _ = 2 := by rw [pow_succ, ← mul_assoc, ← mul_pow]; norm_num
  have hsum := abs_taylorSum_sub_le hb hab (T := 2 ^ F) (V := arctan ((a : ℝ) / b) * 2 ^ F) (by positivity)
    (mul_nonneg (arctan_nonneg.2 hx) (by positivity)) (taylorRounds P) 0 (a * 2 ^ F / b) 0 0 0 hstart hend
    (by simp [arctanTail_zero])
  have hcast : (8 : ℝ) ≤ taylorRounds P := by exact_mod_cast hrounds
  unfold arctanScaled
  linarith

/-- π/4 by Machin's formula. -/
theorem abs_quarterPiScaled_sub_le (P : Nat) : |(quarterPiScaled P P : ℝ) - π / 4 * 2 ^ P| ≤ 20 * taylorRounds P := by
  have hscale : ∀ b : Nat, 2 ≤ b → ((1 : Nat) : ℝ) / b * 2 ^ P ≤ 2 ^ (P + 1) := fun b hb => by
    have hcast : (1 : ℝ) ≤ b := by exact_mod_cast (by omega : 1 ≤ b)
    have hle : ((1 : Nat) : ℝ) / b ≤ 2 := by
      rw [Nat.cast_one]
      exact (div_le_one_of_le₀ hcast (by linarith)).trans (by norm_num)
    rw [pow_succ, mul_comm]
    gcongr
  have h5 := abs_arctanScaled_sub_le (P := P) (F := P) (a := 1) (b := 5) (by norm_num) (by norm_num) (hscale 5 (by norm_num))
  have h239 := abs_arctanScaled_sub_le (P := P) (F := P) (a := 1) (b := 239) (by norm_num) (by norm_num)
    (hscale 239 (by norm_num))
  refine abs_natSub_sub_le _ _ (by positivity) ?_
  rw [← four_mul_arctan_inv_5_sub_arctan_inv_239]
  push_cast at h5 h239 ⊢
  rw [one_div] at h5 h239
  rw [abs_le] at h5 h239 ⊢
  constructor <;> linarith

/-! ### An angle and its enclosures -/

/-- The exact value of an angle. -/
noncomputable def Angle.exact (g : Angle) : ℝ := g.k * (π / 4) + (if g.minus then -1 else 1) * arctan ((g.a : ℝ) / g.b)

/-- What `angleOf` makes: an argument of at most 1/2 and at most four quarters of π; where there are none, a positive
argument, added. -/
structure Angle.Wf (g : Angle) : Prop where
  b_pos : 0 < g.b
  two_a_le : 2 * g.a ≤ g.b
  k_le : g.k ≤ 4
  a_pos_of_zero : g.k = 0 → 0 < g.a
  plus_of_zero : g.k = 0 → g.minus = false

section
variable {g : Angle} (hg : g.Wf)
include hg

theorem Angle.Wf.ratio_bounds : 0 ≤ (g.a : ℝ) / g.b ∧ (g.a : ℝ) / g.b ≤ 1 / 2 :=
  ⟨by positivity, ratio_le_half hg.b_pos hg.two_a_le⟩

/-- An arctangent of at most 1/2 lies between half its argument and its argument. -/
theorem Angle.Wf.arctan_bounds : (g.a : ℝ) / g.b / 2 ≤ arctan ((g.a : ℝ) / g.b) ∧ arctan ((g.a : ℝ) / g.b) ≤ 1 / 2 := by
  obtain ⟨hnonneg, hhalf⟩ := hg.ratio_bounds
  have hone := arctanTail_eq ((g.a : ℝ) / g.b) 0
  have htail := arctanTail_le hnonneg 1
  have htail0 := arctanTail_nonneg hnonneg 1
  rw [arctanTail_zero] at hone
  norm_num at hone htail
  constructor
  · nlinarith [mul_nonneg hnonneg hnonneg]
  · linarith

/-- The arguments' own scale: x * 2^F below 2^(P+1), and at least 2^(P−1) where no quarter of π is there. -/
theorem Angle.Wf.ratio_scale (P : Nat) : (g.a : ℝ) / g.b * 2 ^ g.scale P ≤ 2 ^ (P + 1) ∧
    (g.k = 0 → (2 : ℝ) ^ P ≤ 2 * ((g.a : ℝ) / g.b * 2 ^ g.scale P)) := by
  obtain ⟨-, hhalf⟩ := hg.ratio_bounds
  have hb : (0 : ℝ) < g.b := by exact_mod_cast hg.b_pos
  by_cases hk : g.k = 0
  · rw [Angle.scale, if_pos hk]
    have hlog : Nat.log2 g.a ≤ Nat.log2 g.b := by
      rw [Nat.log2_eq_log_two, Nat.log2_eq_log_two]
      exact Nat.log_mono_right (by have := hg.two_a_le; omega)
    have hahigh : g.a ≤ 2 ^ (Nat.log2 g.a + 1) := Nat.lt_log2_self.le
    have halow : 2 ^ Nat.log2 g.a ≤ g.a := Nat.log2_self_le (hg.a_pos_of_zero hk).ne'
    have hbhigh : g.b ≤ 2 ^ (Nat.log2 g.b + 1) := Nat.lt_log2_self.le
    have hblow : 2 ^ Nat.log2 g.b ≤ g.b := Nat.log2_self_le hg.b_pos.ne'
    obtain ⟨d, hd⟩ := Nat.exists_eq_add_of_le hlog
    have hd' : Nat.log2 g.b - Nat.log2 g.a = d := by omega
    rw [hd', div_mul_eq_mul_div, div_le_iff₀ hb, ← mul_div_assoc, le_div_iff₀ hb]
    rw [hd] at hbhigh hblow
    generalize Nat.log2 g.a = l at *
    constructor
    · have h : g.a * 2 ^ (P + d) ≤ 2 ^ (P + 1) * g.b := by
        calc g.a * 2 ^ (P + d) ≤ 2 ^ (l + 1) * 2 ^ (P + d) := Nat.mul_le_mul_right _ hahigh
          _ = 2 ^ (P + 1) * 2 ^ (l + d) := by ring
          _ ≤ 2 ^ (P + 1) * g.b := Nat.mul_le_mul_left _ hblow
      exact_mod_cast h
    · have h : 2 ^ P * g.b ≤ 2 * (g.a * 2 ^ (P + d)) := by
        calc 2 ^ P * g.b ≤ 2 ^ P * 2 ^ (l + d + 1) := Nat.mul_le_mul_left _ hbhigh
          _ = 2 * (2 ^ l * 2 ^ (P + d)) := by ring
          _ ≤ 2 * (g.a * 2 ^ (P + d)) := Nat.mul_le_mul_left _ (Nat.mul_le_mul_right _ halow)
      exact fun _ => by exact_mod_cast h
  · rw [Angle.scale, if_neg hk, pow_succ, mul_comm]
    exact ⟨by gcongr; linarith, fun h => absurd h hk⟩

/-- An exact angle is at least a quarter of its argument, or of 1 where there are quarters of π. -/
theorem Angle.Wf.exact_lower (P : Nat) : (2 : ℝ) ^ P ≤ 4 * (g.exact * 2 ^ g.scale P) := by
  obtain ⟨hlow, hhigh⟩ := hg.arctan_bounds
  obtain ⟨hnonneg, -⟩ := hg.ratio_bounds
  have hpi := pi_gt_three
  by_cases hk : g.k = 0
  · have hscale := (hg.ratio_scale P).2 hk
    have hexact : g.exact = arctan ((g.a : ℝ) / g.b) := by simp [Angle.exact, hk, hg.plus_of_zero hk]
    have hle : (g.a : ℝ) / g.b / 2 * 2 ^ g.scale P ≤ arctan ((g.a : ℝ) / g.b) * 2 ^ g.scale P := by gcongr
    rw [hexact]
    linarith
  · have hcast : (1 : ℝ) ≤ g.k := by exact_mod_cast Nat.one_le_iff_ne_zero.2 hk
    have hquarter : 1 / 4 ≤ g.exact := by
      unfold Angle.exact
      have hmul : 1 * (π / 4) ≤ g.k * (π / 4) := by gcongr
      split <;> linarith
    rw [Angle.scale, if_neg hk]
    nlinarith [pow_pos (zero_lt_two (α := ℝ)) P]

theorem Angle.Wf.exact_pos : 0 < g.exact := by
  have hlow := hg.exact_lower 0
  rw [pow_zero] at hlow
  by_contra hle
  have hprod : g.exact * 2 ^ g.scale 0 ≤ 0 := mul_nonpos_of_nonpos_of_nonneg (not_lt.1 hle) (by positivity)
  linarith

theorem Angle.Wf.abs_scaled_sub_lt (P : Nat) : |(g.scaled P : ℝ) - g.exact * 2 ^ g.scale P| < angleError P := by
  obtain ⟨hrounds, -⟩ := taylorRounds_bounds P
  have hR : (8 : ℝ) ≤ taylorRounds P := by exact_mod_cast hrounds
  have hu := abs_arctanScaled_sub_le hg.b_pos hg.two_a_le (hg.ratio_scale P).1
  have herror : (angleError P : ℝ) = 256 * taylorRounds P := by unfold angleError; push_cast; ring
  have hexact : 0 ≤ g.exact * 2 ^ g.scale P := mul_nonneg hg.exact_pos.le (by positivity)
  suffices h : |(g.scaled P : ℝ) - g.exact * 2 ^ g.scale P| ≤ 84 * taylorRounds P by
    rw [herror]
    linarith
  by_cases hk : g.k = 0
  · have hscaled : g.scaled P = arctanScaled P (g.scale P) g.a g.b := by simp [Angle.scaled, hk]
    have hvalue : g.exact = arctan ((g.a : ℝ) / g.b) := by simp [Angle.exact, hk, hg.plus_of_zero hk]
    rw [hscaled, hvalue]
    linarith
  · have hF : g.scale P = P := by simp [Angle.scale, hk]
    have hq := abs_quarterPiScaled_sub_le P
    have hkq : |(g.k : ℝ) * quarterPiScaled P P - g.k * (π / 4) * 2 ^ P| ≤ 80 * taylorRounds P := by
      have hk4 : (g.k : ℝ) ≤ 4 := by exact_mod_cast hg.k_le
      rw [mul_assoc, ← mul_sub, abs_mul, Nat.abs_cast]
      calc (g.k : ℝ) * |(quarterPiScaled P P : ℝ) - π / 4 * 2 ^ P| ≤ 4 * (20 * taylorRounds P) := by gcongr
        _ = 80 * taylorRounds P := by ring
    rw [hF] at hu hexact ⊢
    have hadd : ∀ s : ℝ, |s| = 1 → |(g.k : ℝ) * quarterPiScaled P P + s * arctanScaled P P g.a g.b -
        (g.k * (π / 4) + s * arctan ((g.a : ℝ) / g.b)) * 2 ^ P| ≤ 84 * taylorRounds P := fun s hs => by
      calc _ = |((g.k : ℝ) * quarterPiScaled P P - g.k * (π / 4) * 2 ^ P) +
              s * (arctanScaled P P g.a g.b - arctan ((g.a : ℝ) / g.b) * 2 ^ P)| := by congr 1; ring
        _ ≤ |(g.k : ℝ) * quarterPiScaled P P - g.k * (π / 4) * 2 ^ P| +
              |s * (arctanScaled P P g.a g.b - arctan ((g.a : ℝ) / g.b) * 2 ^ P)| := abs_add_le _ _
        _ ≤ 84 * taylorRounds P := by rw [abs_mul, hs]; linarith
    unfold Angle.exact at hexact ⊢
    simp only [Angle.scaled, hF, if_neg hk]
    cases hm : g.minus
    · have h := hadd 1 (by norm_num)
      simpa using h
    · refine abs_natSub_sub_le _ _ (by simpa [hm] using hexact) ?_
      have h := hadd (-1) (by norm_num)
      push_cast
      simpa [sub_eq_add_neg] using h

/-- The enclosure holds the exact angle. -/
theorem Angle.Wf.enclosure (P : Nat) : (g.low P : ℝ) * 2 ^ (-(g.scale P : Int)) ≤ g.exact ∧
    g.exact ≤ (g.high P : ℝ) * 2 ^ (-(g.scale P : Int)) ∧
    g.exact * 2 ^ g.scale P ≤ g.low P + 2 * angleError P := by
  have herror := hg.abs_scaled_sub_lt P
  rw [abs_lt] at herror
  have hpow : (0 : ℝ) < 2 ^ g.scale P := by positivity
  have hlow : (g.low P : ℝ) ≤ g.exact * 2 ^ g.scale P := by
    rcases le_total (angleError P) (g.scaled P) with hle | hle
    · rw [Angle.low, Nat.cast_sub hle]
      linarith
    · rw [Angle.low, Nat.sub_eq_zero_of_le hle, Nat.cast_zero]
      exact mul_nonneg hg.exact_pos.le hpow.le
  have hlow' : (g.scaled P : ℝ) ≤ g.low P + angleError P := by
    exact_mod_cast (by unfold Angle.low; omega : g.scaled P ≤ g.low P + angleError P)
  rw [zpow_neg, zpow_natCast, ← div_eq_mul_inv, ← div_eq_mul_inv, div_le_iff₀ hpow, le_div_iff₀ hpow]
  refine ⟨hlow, ?_, by linarith⟩
  unfold Angle.high
  push_cast
  linarith

end

end Sys2Proof.Machine
end

section
/-! PROOFS. The angles that the arctangents take are the arguments of complex numbers (R201, R202). -/

namespace Sys2Proof.Machine

open Sys2Proof.Claims Real

/-! ### Arguments by arctangents -/

theorem arg_of_re_pos {x : ℝ} (hx : 0 < x) (y : ℝ) : Complex.arg ⟨x, y⟩ = arctan (y / x) := by
  have hcos := cos_arctan_pos (y / x)
  have hbounds : arctan (y / x) ∈ Set.Ioc (-π) π :=
    ⟨by linarith [neg_pi_div_two_lt_arctan (y / x), pi_pos], by linarith [arctan_lt_pi_div_two (y / x), pi_pos]⟩
  have hsin : x / cos (arctan (y / x)) * sin (arctan (y / x)) = y := by
    rw [div_mul_eq_mul_div, mul_div_assoc, ← tan_eq_sin_div_cos, tan_arctan, mul_div_cancel₀ _ hx.ne']
  rw [← Complex.arg_mul_cos_add_sin_mul_I (div_pos hx hcos) hbounds]
  congr 1
  apply Complex.ext
  · rw [Complex.re_ofReal_mul, ← Complex.ofReal_cos, ← Complex.ofReal_sin, ← Complex.mk_eq_add_mul_I,
      div_mul_cancel₀ _ hcos.ne']
  · rw [Complex.im_ofReal_mul, ← Complex.ofReal_cos, ← Complex.ofReal_sin, ← Complex.mk_eq_add_mul_I, hsin]

/-- The point (−x, y) is π minus the point (x, y). -/
theorem arg_of_re_neg {x y : ℝ} (hx : 0 < x) (hy : 0 < y) : Complex.arg ⟨-x, y⟩ = π - arctan (y / x) := by
  have h := Complex.arg_neg_eq_arg_sub_pi_of_im_pos (x := ⟨-x, y⟩) hy
  have hneg : -(⟨-x, y⟩ : ℂ) = ⟨x, -y⟩ := by apply Complex.ext <;> simp
  rw [hneg, arg_of_re_pos hx, neg_div, arctan_neg] at h
  linarith

theorem arg_of_im_neg {x y : ℝ} (hy : y ≠ 0) : Complex.arg ⟨x, -y⟩ = -Complex.arg ⟨x, y⟩ := by
  have hconj : (⟨x, -y⟩ : ℂ) = (starRingEnd ℂ) ⟨x, y⟩ := rfl
  have hne : Complex.arg ⟨x, y⟩ ≠ π := fun h => hy (Complex.arg_eq_pi_iff.1 h).2
  rw [hconj, Complex.arg_conj, if_neg hne]

/-! ### The first quadrant and its mirror image -/

/-- The four sectors of the first quadrant, and the angle that each takes. -/
theorem firstQuadrant_cases (a b : Nat) :
    (2 * a ≤ b ∧ firstQuadrant a b = ⟨0, false, a, b⟩) ∨ (2 * b ≤ a ∧ firstQuadrant a b = ⟨2, true, b, a⟩) ∨
      (b ≤ a ∧ a < 2 * b ∧ firstQuadrant a b = ⟨1, false, a - b, a + b⟩) ∨
      (a < b ∧ b < 2 * a ∧ firstQuadrant a b = ⟨1, true, b - a, a + b⟩) := by
  unfold firstQuadrant
  split
  · exact .inl ⟨‹_›, rfl⟩
  · split
    · exact .inr (.inl ⟨‹_›, rfl⟩)
    · split
      · exact .inr (.inr (.inl ⟨‹_›, by omega, rfl⟩))
      · exact .inr (.inr (.inr ⟨by omega, by omega, rfl⟩))

theorem firstQuadrant_wf {a b : Nat} (ha : 0 < a) (hb : 0 < b) : (firstQuadrant a b).Wf ∧ (firstQuadrant a b).k < 4 := by
  rcases firstQuadrant_cases a b with ⟨h, heq⟩ | ⟨h, heq⟩ | ⟨h, h', heq⟩ | ⟨h, h', heq⟩ <;> rw [heq]
  · exact ⟨⟨hb, h, by simp, fun _ => ha, fun _ => rfl⟩, by simp⟩
  · exact ⟨⟨ha, h, by simp, by simp, by simp⟩, by simp⟩
  · exact ⟨⟨by dsimp only; omega, by dsimp only; omega, by simp, by simp, by simp⟩, by simp⟩
  · exact ⟨⟨by dsimp only; omega, by dsimp only; omega, by simp, by simp, by simp⟩, by simp⟩

theorem Angle.Wf.mirrored {g : Angle} (hg : g.Wf) (hk : g.k < 4) : g.mirrored.Wf :=
  ⟨hg.b_pos, hg.two_a_le, Nat.sub_le _ _, fun h => absurd h (by simp [Angle.mirrored]; omega),
    fun h => absurd h (by simp [Angle.mirrored]; omega)⟩

theorem Angle.exact_mirrored {g : Angle} (hk : g.k < 4) : g.mirrored.exact = π - g.exact := by
  unfold Angle.exact Angle.mirrored
  rw [Nat.cast_sub hk.le]
  cases g.minus <;> simp <;> ring

/-- The tangent of π/4 plus an arctangent. -/
theorem quarter_add_arctan {z : ℝ} (hz : z < 1) : π / 4 + arctan z = arctan ((1 + z) / (1 - z)) := by
  rw [← arctan_one, arctan_add (by linarith), one_mul]

theorem exact_firstQuadrant {a b : Nat} (ha : 0 < a) (hb : 0 < b) : (firstQuadrant a b).exact = arctan ((a : ℝ) / b) := by
  have ha' : (0 : ℝ) < a := by exact_mod_cast ha
  have hb' : (0 : ℝ) < b := by exact_mod_cast hb
  have hsum : (0 : ℝ) < a + b := by linarith
  have htan : ∀ z : ℝ, z * (a + b) = a - b → π / 4 + arctan z = arctan ((a : ℝ) / b) := fun z hz => by
    have hlt : z < 1 := by nlinarith
    have hratio : (1 + z) / (1 - z) = (a : ℝ) / b := by
      rw [div_eq_div_iff (by linarith) hb'.ne']
      linarith
    rw [quarter_add_arctan hlt, hratio]
  rcases firstQuadrant_cases a b with ⟨h, heq⟩ | ⟨h, heq⟩ | ⟨h, h', heq⟩ | ⟨h, h', heq⟩ <;> rw [heq, Angle.exact]
  · simp
  · rw [← inv_div (b : ℝ) a, arctan_inv_of_pos (div_pos hb' ha')]
    simp only [if_true]
    push_cast
    ring
  · rw [← htan ((a - b : Nat) / (a + b : Nat))]
    · simp
    · rw [Nat.cast_sub h]
      push_cast
      field_simp
  · rw [← htan (-((b - a : Nat) / (a + b : Nat))), arctan_neg]
    · simp
    · rw [Nat.cast_sub h.le]
      push_cast
      field_simp
      ring

/-! ### `angleOf` -/

/-- A common scale of two positive values m * 2^e. -/
theorem ratio_of_parts (my mx : Nat) (ey ex : Int) :
    ((my * 2 ^ (ey - ex).toNat : Nat) : ℝ) / (mx * 2 ^ (ex - ey).toNat : Nat) = (my * (2 : ℝ) ^ ey) / (mx * (2 : ℝ) ^ ex) := by
  have hscale : (2 : ℝ) ^ ey * 2 ^ (ex - ey).toNat = 2 ^ ex * 2 ^ (ey - ex).toNat := by
    rw [← zpow_natCast, ← zpow_natCast, ← zpow_add₀ two_ne_zero, ← zpow_add₀ two_ne_zero]
    congr 1
    omega
  have hey : (2 : ℝ) ^ ey ≠ 0 := by positivity
  have hex : (2 : ℝ) ^ ex ≠ 0 := by positivity
  rcases Nat.eq_zero_or_pos mx with rfl | hmx
  · simp
  · have hmx' : (mx : ℝ) ≠ 0 := by exact_mod_cast hmx.ne'
    push_cast
    rw [div_eq_div_iff (by positivity) (by positivity)]
    linear_combination (-(my : ℝ) * mx) * hscale

theorem angleOf_wf {my mx : Nat} (ey : Int) (xneg : Bool) (ex : Int) (hy : 0 < my) (hx : 0 < mx) :
    (angleOf my ey xneg mx ex).Wf := by
  obtain ⟨hwf, hk⟩ := firstQuadrant_wf (Nat.mul_pos hy (Nat.two_pow_pos (ey - ex).toNat))
    (Nat.mul_pos hx (Nat.two_pow_pos (ex - ey).toNat))
  cases xneg
  · exact hwf
  · exact hwf.mirrored hk

/-- The angle that ATAN2_64 takes is the argument (R201). -/
theorem exact_angleOf {my mx : Nat} (ey : Int) (xneg : Bool) (ex : Int) (hy : 0 < my) (hx : 0 < mx) :
    (angleOf my ey xneg mx ex).exact = Complex.arg ⟨realValue xneg mx ex, realValue false my ey⟩ := by
  have hmy := Nat.mul_pos hy (Nat.two_pow_pos (ey - ex).toNat)
  have hmx := Nat.mul_pos hx (Nat.two_pow_pos (ex - ey).toNat)
  obtain ⟨-, hk⟩ := firstQuadrant_wf hmy hmx
  have hexact := exact_firstQuadrant hmy hmx
  rw [ratio_of_parts] at hexact
  have hy' : (0 : ℝ) < my * 2 ^ ey := mul_pos (by exact_mod_cast hy) (by positivity)
  have hx' : (0 : ℝ) < mx * 2 ^ ex := mul_pos (by exact_mod_cast hx) (by positivity)
  have hre : realValue true mx ex = -((mx : ℝ) * 2 ^ ex) := by simp [realValue]
  have him : realValue false my ey = my * 2 ^ ey := by simp [realValue]
  have hre' : realValue false mx ex = mx * 2 ^ ex := by simp [realValue]
  cases xneg
  · rw [him, hre', arg_of_re_pos hx']
    exact hexact
  · rw [him, hre, arg_of_re_neg hx' hy', ← hexact]
    exact Angle.exact_mirrored hk

/-- The angle that ATAN_64 takes is the arctangent (R202). -/
theorem exact_angleOf_one {m : Nat} (e : Int) (hm : 0 < m) :
    (angleOf m e false 1 0).exact = arctan (realValue false m e) := by
  rw [exact_angleOf e false 0 hm one_pos, arg_of_re_pos (by simp [realValue])]
  simp [realValue]

end Sys2Proof.Machine
end

section
/-! PROOFS. The arctangents of finite non-zero operands are within 1 ulp of the exact angle (R201 (a), R202 (a)). -/

namespace Sys2Proof.Machine

open Sys2Proof.Claims Real

variable {v w : ℝ} {bits lo : Nat}

/-! ### Neighbours and units -/

theorem exists_floor (hv : 0 ≤ v) {z : Nat} (hz : v < magValue z) : ∃ lo, magValue lo ≤ v ∧ v < magValue (lo + 1) := by
  classical
  have hex : ∃ n, v < magValue n := ⟨z, hz⟩
  have hne : Nat.find hex ≠ 0 := fun h => by
    have hlt := Nat.find_spec hex
    rw [h, magValue_zero] at hlt
    linarith
  obtain ⟨lo, hlo⟩ := Nat.exists_eq_succ_of_ne_zero hne
  have hspec := Nat.find_spec hex
  rw [hlo] at hspec
  exact ⟨lo, not_lt.1 (Nat.find_min hex (by omega)), hspec⟩

theorem exists_isNearest (hv : 0 ≤ v) {z : Nat} (hz : v < magValue z) : ∃ bits, IsNearest v bits := by
  obtain ⟨lo, hlow, hhigh⟩ := exists_floor hv hz
  obtain ⟨hbelow, habove, htie⟩ := isNearest_of_between hlow hhigh.le
  rcases lt_trichotomy (2 * v) (magValue lo + magValue (lo + 1)) with h | h | h
  · exact ⟨_, hbelow h⟩
  · exact ⟨_, htie h⟩
  · exact ⟨_, habove h⟩

/-- The unit in the last place is the distance of the two neighbours. -/
theorem ulpAt_of_between (hpos : 0 < v) (hlow : magValue lo ≤ v) (hhigh : v < magValue (lo + 1)) :
    ulpAt v = magValue (lo + 1) - magValue lo := by
  obtain ⟨Q, sig, rfl, hnorm, hsig⟩ := exists_parts lo
  rw [magValue_succ hnorm hsig] at hhigh ⊢
  rw [magValue_of_parts hnorm hsig.le] at hlow hhigh
  rw [add_sub_cancel_left, ulpAt, abs_of_pos hpos]
  congr 1
  have hpow : (0 : ℝ) < 2 ^ ((Q : Int) - 1074) := by positivity
  have hupper : ∀ k : Nat, sig + 1 ≤ 2 ^ k → Int.log 2 v < (k : Int) + (Q - 1074) := fun k hk => by
    refine (Int.lt_zpow_iff_log_lt one_lt_two hpos).1 (hhigh.trans_le ?_)
    have hk' : (sig : ℝ) + 1 ≤ 2 ^ k := by exact_mod_cast hk
    push_cast
    rw [zpow_add₀ two_ne_zero, zpow_natCast]
    calc (sig : ℝ) * 2 ^ ((Q : Int) - 1074) + 2 ^ ((Q : Int) - 1074) = (sig + 1) * 2 ^ ((Q : Int) - 1074) := by ring
      _ ≤ 2 ^ k * 2 ^ ((Q : Int) - 1074) := by gcongr
  rcases Nat.lt_or_ge sig (2 ^ 52) with hsub | hnormal
  · have hQ : Q = 0 := hnorm.resolve_right (by omega)
    have hlog := hupper 52 hsub
    subst hQ
    push_cast at hlog ⊢
    rw [max_eq_right (by omega)]
  · have hlog := hupper 53 hsig
    have hlog' : (52 : Int) + (Q - 1074) ≤ Int.log 2 v := by
      refine (Int.zpow_le_iff_le_log one_lt_two hpos).1 (le_trans ?_ hlow)
      have hsig' : (2 : ℝ) ^ 52 ≤ sig := by exact_mod_cast hnormal
      push_cast
      rw [zpow_add₀ two_ne_zero]
      gcongr
      exact_mod_cast hsig'
    push_cast at hlog
    rw [max_eq_left (by omega)]
    omega

theorem ulpAt_mono (hv : 0 < v) (hle : v ≤ w) : ulpAt v ≤ ulpAt w := by
  have hlog : Int.log 2 |v| ≤ Int.log 2 |w| := by
    rw [abs_of_pos hv, abs_of_pos (hv.trans_le hle)]
    exact Int.log_mono_right hv hle
  exact zpow_le_zpow_right₀ one_le_two (max_le_max_right _ (by omega))

theorem le_ulpAt (hv : 0 < v) : v ≤ 2 ^ 53 * ulpAt v := by
  have hlt := Int.lt_zpow_succ_log_self (b := 2) one_lt_two v
  have hexp : Int.log 2 v + 1 ≤ 53 + max (Int.log 2 |v| - 52) (-1074) := by
    rw [abs_of_pos hv]
    omega
  have hpow : (2 : ℝ) ^ 53 * ulpAt v = 2 ^ (53 + max (Int.log 2 |v| - 52) (-1074)) := by
    rw [ulpAt, zpow_add₀ two_ne_zero]
    rfl
  rw [hpow]
  push_cast at hlt
  exact hlt.le.trans (zpow_le_zpow_right₀ one_le_two hexp)

/-- `bits` is within 1 ulp of `v`, the unit taken at `v`. -/
def IsWithinUlp (v : ℝ) (bits : Nat) : Prop := |magValue bits - v| ≤ ulpAt v

section
variable (hpos : 0 < v) (hlow : magValue lo ≤ v) (hhigh : v < magValue (lo + 1))
include hpos hlow hhigh

theorem isWithinUlp_floor : IsWithinUlp v lo := by
  rw [IsWithinUlp, ulpAt_of_between hpos hlow hhigh, abs_le]
  constructor <;> linarith

theorem isWithinUlp_floor_succ : IsWithinUlp v (lo + 1) := by
  rw [IsWithinUlp, ulpAt_of_between hpos hlow hhigh, abs_le]
  constructor <;> linarith

/-- The nearest binary64 is half a unit away at most. -/
theorem IsNearest.two_mul_abs_sub_le_ulpAt (h : IsNearest v bits) : 2 * |magValue bits - v| ≤ ulpAt v := by
  have hlo := (h lo).1
  have hhi := (h (lo + 1)).1
  rw [abs_of_nonneg (by linarith : 0 ≤ v - magValue lo)] at hlo
  rw [abs_of_nonpos (by linarith : v - magValue (lo + 1) ≤ 0)] at hhi
  rw [abs_sub_comm, ulpAt_of_between hpos hlow hhigh]
  linarith

/-- Where a binade begins, the binary64 below is half a unit away from its start. -/
theorem isWithinUlp_below (hbits : bits + 1 = lo) (hstart : isBinadeStart lo = true) (hnear : IsNearest v lo) :
    IsWithinUlp v bits := by
  have hhalf := hnear.two_mul_abs_sub_le_ulpAt hpos hlow hhigh
  rw [isBinadeStart, Bool.and_eq_true, decide_eq_true_iff, decide_eq_true_iff] at hstart
  obtain ⟨hmod, hbig⟩ := hstart
  obtain ⟨Q, hQ⟩ : ∃ Q, lo = (Q + 1) * 2 ^ 52 + 2 ^ 52 := ⟨lo / 2 ^ 52 - 2, by omega⟩
  have hgap := magValue_succ (Q := Q + 1) (sig := 2 ^ 52) (.inr le_rfl) (by norm_num)
  have hgap' := magValue_succ (Q := Q) (sig := 2 ^ 53 - 1) (.inr (by norm_num)) (by norm_num)
  rw [← hQ] at hgap
  rw [show Q * 2 ^ 52 + (2 ^ 53 - 1) = bits by omega, hbits] at hgap'
  have hdouble : (2 : ℝ) ^ (((Q + 1 : Nat) : Int) - 1074) = 2 * 2 ^ ((Q : Int) - 1074) := by
    rw [show ((Q + 1 : Nat) : Int) - 1074 = 1 + (Q - 1074) by push_cast; ring, zpow_add₀ two_ne_zero, zpow_one]
  have hunit := ulpAt_of_between hpos hlow hhigh
  have hpow : (0 : ℝ) < 2 ^ ((Q : Int) - 1074) := by positivity
  rw [abs_of_nonpos (by linarith)] at hhalf
  rw [IsWithinUlp, abs_of_nonpos (by linarith)]
  linarith

end

/-- No more than `most`, where the next binary64 above `most` is beyond `v`, is as near as before. -/
theorem IsWithinUlp.min_left {most : Nat} (h : IsWithinUlp v bits) (hpos : 0 < v) (hmost : v < magValue (most + 1)) :
    IsWithinUlp v (min most bits) := by
  rcases le_total bits most with hle | hle
  · rwa [min_eq_right hle]
  · rw [min_eq_left hle]
    rcases le_or_gt (magValue most) v with hv | hv
    · exact isWithinUlp_floor hpos hv hmost
    · have hbits : magValue most ≤ magValue bits := magValue_strictMono.monotone hle
      unfold IsWithinUlp at h ⊢
      rw [abs_of_pos (by linarith)] at h ⊢
      linarith

/-! ### The roundings that an enclosure settles -/

theorem floorBits_le_lowerBits {m : Nat} (hm : m ≠ 0) (e : Int) : floorBits m e ≤ lowerBits m e :=
  (floorBits_eq hm e).trans_le (min_le_left _ _)

theorem magValue_floorBits_le (m : Nat) (e : Int) : magValue (floorBits m e) ≤ m * (2 : ℝ) ^ e := by
  rcases Nat.eq_zero_or_pos m with rfl | hm
  · simp [floorBits, roundBitsBy, magValue_zero]
  · obtain ⟨-, hlow, -⟩ := exists_isNearest_roundBits hm.ne' (roundsLike_self m e)
    exact (magValue_strictMono.monotone (floorBits_le_lowerBits hm.ne' e)).trans hlow

theorem lt_magValue_floorBits_succ {m : Nat} {e : Int} (h : floorBits m e < infBits) :
    m * (2 : ℝ) ^ e < magValue (floorBits m e + 1) := by
  rcases Nat.eq_zero_or_pos m with rfl | hm
  · rw [Nat.cast_zero, zero_mul]
    exact (magValue_nonneg _).trans_lt (magValue_strictMono (Nat.lt_succ_self _))
  · obtain ⟨-, -, hhigh⟩ := exists_isNearest_roundBits hm.ne' (roundsLike_self m e)
    rw [floorBits_eq hm.ne'] at h ⊢
    rwa [min_eq_left (by omega)]

theorem val64_withSign (neg : Bool) (h : bits < 2 ^ 63) : val64 (withSign neg bits) = (if neg then -1 else 1) * magValue bits := by
  rw [val64, sign64_withSign, magBits_withSign neg h]

section
variable {g : Angle} (hg : g.Wf)
include hg

theorem Angle.Wf.exact_lt : g.exact < magValue ((2 + 1023) * 2 ^ 52) := by
  obtain ⟨hlow, hhigh⟩ := hg.arctan_bounds
  obtain ⟨hnonneg, -⟩ := hg.ratio_bounds
  have hk : (g.k : ℝ) ≤ 4 := by exact_mod_cast hg.k_le
  have hpi := pi_lt_d2
  have hmul : (g.k : ℝ) * (π / 4) ≤ 4 * (π / 4) := by gcongr
  rw [magValue_two_pow]
  unfold Angle.exact
  split <;> linarith

/-- What rounds to the nearest of a number that is at most an angle is finite. -/
theorem Angle.Wf.nearest_lt_infBits (h : IsNearest v bits) (hv : v ≤ g.exact) : bits < infBits :=
  (h.mono (isNearest_magValue _) (hv.trans hg.exact_lt.le)).trans_lt (two_pow_bits_lt (by norm_num))

theorem Angle.Wf.isNearest_of_settled {precisions : List Nat} (h : g.settled roundBits precisions = some bits) :
    IsNearest g.exact bits := by
  obtain ⟨P, -, hlow, hhigh⟩ := g.settled_eq_some h
  obtain ⟨hle, hge, -⟩ := hg.enclosure P
  obtain ⟨bl, hbl, heql⟩ := isNearest_roundBits (g.low P) (-(g.scale P : Int))
  obtain ⟨bh, hbh, heqh⟩ := isNearest_roundBits (g.high P) (-(g.scale P : Int))
  obtain ⟨b, hb⟩ := exists_isNearest hg.exact_pos.le hg.exact_lt
  have hbfin := hg.nearest_lt_infBits hb le_rfl
  have h1 := hbl.mono hb hle
  have h2 := hb.mono hbh hge
  rw [show bits = b by omega]
  exact hb

theorem Angle.Wf.between_of_settled {precisions : List Nat} (h : g.settled floorBits precisions = some bits) :
    magValue bits ≤ g.exact ∧ g.exact < magValue (bits + 1) := by
  obtain ⟨P, -, hlow, hhigh⟩ := g.settled_eq_some h
  obtain ⟨hle, hge, -⟩ := hg.enclosure P
  have hfloor : magValue bits ≤ g.exact := (hlow ▸ magValue_floorBits_le _ _).trans hle
  have hfin : bits < infBits := (magValue_strictMono.lt_iff_lt.1 (hfloor.trans_lt hg.exact_lt)).trans
    (two_pow_bits_lt (by norm_num))
  refine ⟨hfloor, hge.trans_lt ?_⟩
  have hupper := lt_magValue_floorBits_succ (hhigh.trans_lt hfin)
  rwa [hhigh] at hupper

theorem Angle.Wf.isWithinUlp_of_isNearest (h : IsNearest g.exact bits) : IsWithinUlp g.exact bits := by
  obtain ⟨lo, hlow, hhigh⟩ := exists_floor hg.exact_pos.le hg.exact_lt
  have hhalf := h.two_mul_abs_sub_le_ulpAt hg.exact_pos hlow hhigh
  exact le_trans (by linarith [abs_nonneg (magValue bits - g.exact)]) hhalf

theorem Angle.Wf.isWithinUlp_of_admits (h : g.admits bits = true) : IsWithinUlp g.exact bits := by
  obtain ⟨f, hf, hwithin⟩ := (g.admits_iff bits).1 h
  obtain ⟨hlow, hhigh⟩ := hg.between_of_settled hf
  rcases (withinUlp_iff _ _ _).1 hwithin with rfl | rfl | ⟨hbelow, hstart, hnearest⟩
  · exact isWithinUlp_floor hg.exact_pos hlow hhigh
  · exact isWithinUlp_floor_succ hg.exact_pos hlow hhigh
  · exact isWithinUlp_below hg.exact_pos hlow hhigh hbelow hstart (hg.isNearest_of_settled hnearest)

/-! ### The correctly rounded value, or what stands for it -/

/-- The lower end of the 2400-bit enclosure is far less than a unit below the angle. -/
theorem Angle.Wf.low_close : 2 ^ 60 * (g.exact - g.low 2400 * (2 : ℝ) ^ (-(g.scale 2400 : Int))) ≤ g.exact := by
  obtain ⟨-, -, herror⟩ := hg.enclosure 2400
  have hlower := hg.exact_lower 2400
  have hpow : (0 : ℝ) < 2 ^ g.scale 2400 := by positivity
  have hsize : (2 : ℝ) ^ 81 ≤ 2 ^ 2400 := pow_le_pow_right₀ one_le_two (by norm_num)
  have herr : (angleError 2400 : ℝ) = 155648 := by norm_num [angleError, taylorRounds]
  rw [herr] at herror
  rw [zpow_neg, zpow_natCast, ← div_eq_mul_inv]
  refine le_of_mul_le_mul_right ?_ hpow
  have hexpand : 2 ^ 60 * (g.exact - g.low 2400 / 2 ^ g.scale 2400) * 2 ^ g.scale 2400 =
      2 ^ 60 * (g.exact * 2 ^ g.scale 2400 - g.low 2400) := by
    rw [mul_assoc, sub_mul, div_mul_cancel₀ _ hpow.ne']
  rw [hexpand]
  calc 2 ^ 60 * (g.exact * 2 ^ g.scale 2400 - g.low 2400) ≤ 2 ^ 60 * (2 * 155648) :=
        mul_le_mul_of_nonneg_left (by linarith) (by positivity)
    _ ≤ 2 ^ 81 / 4 := by norm_num
    _ ≤ g.exact * 2 ^ g.scale 2400 := by
        generalize (2 : ℝ) ^ 2400 = big at hsize hlower
        linarith

theorem Angle.Wf.isWithinUlp_nearestBits : IsWithinUlp g.exact g.nearestBits := by
  cases hsettled : g.settled roundBits arctanPrecisions with
  | some v =>
    rw [g.nearestBits_of_settled hsettled]
    exact hg.isWithinUlp_of_isNearest (hg.isNearest_of_settled hsettled)
  | none =>
    rw [g.nearestBits_of_unsettled hsettled]
    obtain ⟨hle, -⟩ := hg.enclosure 2400
    obtain ⟨b, hb, hbits⟩ := isNearest_roundBits (g.low 2400) (-(g.scale 2400 : Int))
    have hclose := hg.low_close
    have hpos := hg.exact_pos
    rw [hbits, min_eq_left (hg.nearest_lt_infBits hb hle).le]
    generalize (g.low 2400 : ℝ) * (2 : ℝ) ^ (-(g.scale 2400 : Int)) = w at *
    have hw : 0 < w := by linarith
    obtain ⟨lo, hlow, hhigh⟩ := exists_floor hw.le (hle.trans_lt hg.exact_lt)
    have hhalf := (hb.two_mul_abs_sub_le_ulpAt hw hlow hhigh).trans (ulpAt_mono hw hle)
    have hunit := le_ulpAt hpos
    have htriangle := abs_sub_le (magValue b) w g.exact
    rw [abs_of_nonpos (by linarith : w - g.exact ≤ 0)] at htriangle
    unfold IsWithinUlp
    linarith

/-- A build's value of an angle is within 1 ulp of it. -/
theorem Angle.Wf.value_within (reference : Bool) (proposal : B64) {most : Nat} (hmost : most < infBits)
    (hlt : g.exact < magValue (most + 1)) : magBits (g.value reference proposal most) < infBits ∧
      |val64 (g.value reference proposal most) - g.exact| ≤ ulpAt g.exact := by
  have hpos := hg.exact_pos
  have hmin : ∀ b, min most b < infBits := fun b => (min_le_left _ _).trans_lt hmost
  have hlt63 : ∀ b, min most b < 2 ^ 63 := fun b => (hmin b).trans infBits_lt
  rcases g.value_cases reference proposal most with hv | ⟨-, hadmits, hv⟩
  · rw [hv, magBits_withSign _ (hlt63 _), val64_withSign _ (hlt63 _), if_neg (by decide), one_mul]
    exact ⟨hmin _, hg.isWithinUlp_nearestBits.min_left hpos hlt⟩
  · rw [hv, magBits_withSign _ (hlt63 _), val64_withSign _ (hlt63 _)]
    refine ⟨hmin _, ?_⟩
    have hwithin := (hg.isWithinUlp_of_admits hadmits).min_left hpos hlt
    by_cases h0 : magBits proposal = 0
    · rw [h0, Nat.min_zero] at hwithin ⊢
      rw [magValue_zero, mul_zero, ← magValue_zero]
      exact hwithin
    · rw [decide_eq_false h0, Bool.and_false, if_neg (by decide), one_mul]
      exact hwithin

end

/-! ### Signs -/

theorem val64_negateIf (neg : Bool) (x : B64) : val64 (negateIf neg x) = (if neg then -1 else 1) * val64 x := by
  cases neg
  · rw [negateIf_false, if_neg (by decide), one_mul]
  · rw [negateIf_true, val64_neg64, if_pos rfl, neg_one_mul]

theorem ulpAt_signed (neg : Bool) (v : ℝ) : ulpAt ((if neg then -1 else 1) * v) = ulpAt v := by
  cases neg <;> simp [ulpAt]

/-- The sign carried over to a value carries over to the angle. -/
theorem within_negateIf (neg : Bool) {r : B64} (h : magBits r < infBits ∧ |val64 r - v| ≤ ulpAt v) :
    ∃ n m e, unpack64 (negateIf neg r) = .fin n m e ∧
      |realValue n m e - (if neg then -1 else 1) * v| ≤ ulpAt ((if neg then -1 else 1) * v) := by
  obtain ⟨hfin, hle⟩ := h
  have hunpack := unpack64_of_lt (show magBits (negateIf neg r) < infBits by rwa [magBits_negateIf])
  refine ⟨_, _, _, hunpack, ?_⟩
  rw [realValue_of_unpack64 hunpack, val64_negateIf, ulpAt_signed, ← mul_sub, abs_mul]
  cases neg <;> simpa using hle

theorem realValue_signed (neg : Bool) (m : Nat) (e : Int) :
    realValue neg m e = (if neg then -1 else 1) * realValue false m e := by
  cases neg <;> simp [realValue]

theorem arg_signed {x y : ℝ} (neg : Bool) (hy : y ≠ 0) :
    Complex.arg ⟨x, (if neg then -1 else 1) * y⟩ = (if neg then -1 else 1) * Complex.arg ⟨x, y⟩ := by
  cases neg
  · simp
  · simpa using arg_of_im_neg hy

theorem arctan_signed (neg : Bool) (y : ℝ) : arctan ((if neg then -1 else 1) * y) = (if neg then -1 else 1) * arctan y := by
  cases neg
  · simp
  · simp [arctan_neg]

/-! ### The ends of the ranges (R201 (d), R202 (d)) -/

theorem pi_lt_magValue : π < magValue (piBits + 1) := by
  have h := magValue_of_parts (Q := 1023) (sig := 7074237752028441) (.inr (by norm_num)) (by norm_num)
  rw [show piBits + 1 = 1023 * 2 ^ 52 + 7074237752028441 by decide, h]
  have hpi := pi_lt_d20
  norm_num at hpi ⊢
  linarith

theorem pi_half_lt_magValue : π / 2 < magValue (halfPiBits + 1) := by
  have h := magValue_of_parts (Q := 1022) (sig := 7074237752028441) (.inr (by norm_num)) (by norm_num)
  rw [show halfPiBits + 1 = 1022 * 2 ^ 52 + 7074237752028441 by decide, h]
  have hpi := pi_lt_d20
  norm_num at hpi ⊢
  linarith

/-- Settles O28: the angle of the magnitudes, and the sign carried over. -/
theorem arctangentsAreWithinOneUlp : Obligations.ArctangentsAreWithinOneUlp := by
  intro b x y ny nx my mx ey ex hy hmy
  have hynan : unpack64 y ≠ .nan := by simp [hy]
  obtain ⟨-, hsign, -⟩ := unpack64_eq_fin_iff.1 hy
  have hmy' := Nat.pos_of_ne_zero hmy
  rw [realValue_signed ny]
  refine ⟨fun hx hmx => ?_, ?_⟩
  · have hxnan : unpack64 x ≠ .nan := by simp [hx]
    have hmx' := Nat.pos_of_ne_zero hmx
    have hexact := exact_angleOf ey nx ex hmy' hmx'
    rw [atan2_of_not_nan b hynan hxnan, hy, hx, atan2Positive, if_neg hmy, if_neg hmx, ← hsign,
      arg_signed ny fun h => hmy (realValue_eq_zero_iff.1 h), ← hexact]
    refine within_negateIf ny ((angleOf_wf ey nx ex hmy' hmx').value_within _ _ (by decide) ?_)
    rw [hexact]
    exact (Complex.arg_le_pi _).trans_lt pi_lt_magValue
  · have hexact := exact_angleOf_one ey hmy'
    rw [atan_of_not_nan b hynan, hy, atanPositive, if_neg hmy, ← hsign, arctan_signed, ← hexact]
    refine within_negateIf ny ((angleOf_wf ey false 0 hmy' one_pos).value_within _ _ (by decide) ?_)
    rw [hexact]
    exact (arctan_lt_pi_div_two _).trans pi_half_lt_magValue

end Sys2Proof.Machine
end
